-- ==== Sys2Proof/Word.lean ====
section
/-! DEFINITION. The widths of the block: bytes, 16-bit words, and the fields of an instruction word (spec R5, R91). -/

namespace Sys2Proof

/-- A V register, a timer, a flag register or a byte of memory (`VLEN`, R5). -/
abbrev Byte := BitVec 8

/-- The index register, the program counter, a return address, an instruction word (R5, R90). -/
abbrev Word := BitVec 16

/-- The field `X` or `Y`: the number of a V register (R91). -/
abbrev Reg := BitVec 4

/-- The field `N`: a 4-bit count (R91). -/
abbrev Nibble := BitVec 4

/-- The field `NNN`: a 12-bit byte address (R91). -/
abbrev Addr12 := BitVec 12

end Sys2Proof
end

