-- ==== Sys2Proof/Syntax.lean ====
section
/-! DEFINITION. The 44 instructions of `spec/opcode_table.json` (R95), one constructor for each row. -/

namespace Sys2Proof

/-- An instruction, named by the pattern that is its mnemonic (R99), with the fields of its format (R92). -/
inductive Instr where
  /-- Scroll down `n` rows (R203). -/
  | op00CN (n : Nibble)
  /-- Clear the display (R202). -/
  | op00E0
  /-- Return (R140). -/
  | op00EE
  /-- Scroll right by 4 columns (R204). -/
  | op00FB
  /-- Scroll left by 4 columns (R205). -/
  | op00FC
  /-- Exit (R141). -/
  | op00FD
  /-- Switch to low-res (R206). -/
  | op00FE
  /-- Switch to high-res (R207). -/
  | op00FF
  /-- Jump (R142). -/
  | op1NNN (nnn : Addr12)
  /-- Call (R143). -/
  | op2NNN (nnn : Addr12)
  /-- Skip if `VX` equals `NN` (R144). -/
  | op3XNN (x : Reg) (nn : Byte)
  /-- Skip if `VX` differs from `NN` (R145). -/
  | op4XNN (x : Reg) (nn : Byte)
  /-- Skip if `VX` equals `VY` (R146). -/
  | op5XY0 (x y : Reg)
  /-- Load `NN` (R160). -/
  | op6XNN (x : Reg) (nn : Byte)
  /-- Add `NN` without a flag (R161). -/
  | op7XNN (x : Reg) (nn : Byte)
  /-- Copy `VY` (R162). -/
  | op8XY0 (x y : Reg)
  /-- Bitwise or (R163). -/
  | op8XY1 (x y : Reg)
  /-- Bitwise and (R164). -/
  | op8XY2 (x y : Reg)
  /-- Bitwise exclusive or (R165). -/
  | op8XY3 (x y : Reg)
  /-- Add with carry out (R166). -/
  | op8XY4 (x y : Reg)
  /-- Subtract (R167). -/
  | op8XY5 (x y : Reg)
  /-- Shift right by one (R168). -/
  | op8XY6 (x y : Reg)
  /-- Reverse subtract (R169). -/
  | op8XY7 (x y : Reg)
  /-- Shift left by one (R170). -/
  | op8XYE (x y : Reg)
  /-- Skip if `VX` differs from `VY` (R147). -/
  | op9XY0 (x y : Reg)
  /-- Load `I` (R180). -/
  | opANNN (nnn : Addr12)
  /-- Jump with offset (R148). -/
  | opBNNN (nnn : Addr12)
  /-- Random byte and mask (R171). -/
  | opCXNN (x : Reg) (nn : Byte)
  /-- Draw an 8-wide sprite of `n` rows, `n` not 0 (R208). -/
  | opDXYN (x y : Reg) (n : Nibble)
  /-- Draw a 16 by 16 sprite, high-res only (R209). -/
  | opDXY0 (x y : Reg)
  /-- Skip if key `VX` is pressed (R230). -/
  | opEX9E (x : Reg)
  /-- Skip if key `VX` is not pressed (R231). -/
  | opEXA1 (x : Reg)
  /-- Read the delay timer (R232). -/
  | opFX07 (x : Reg)
  /-- Wait for a key (R233). -/
  | opFX0A (x : Reg)
  /-- Write the delay timer (R234). -/
  | opFX15 (x : Reg)
  /-- Write the sound timer (R235). -/
  | opFX18 (x : Reg)
  /-- Add `VX` to `I` (R181). -/
  | opFX1E (x : Reg)
  /-- Address of a small-font glyph (R182). -/
  | opFX29 (x : Reg)
  /-- Address of a large-font glyph (R183). -/
  | opFX30 (x : Reg)
  /-- Store decimal digits (R184). -/
  | opFX33 (x : Reg)
  /-- Store registers (R185). -/
  | opFX55 (x : Reg)
  /-- Load registers (R186). -/
  | opFX65 (x : Reg)
  /-- Save registers to the flag registers (R187). -/
  | opFX75 (x : Reg)
  /-- Restore registers from the flag registers (R188). -/
  | opFX85 (x : Reg)
  deriving DecidableEq, Repr

end Sys2Proof
end

