-- ==== Sys2Proof/WellFormed.lean ====
section
/-! DEFINITION. The one constraint the spec puts on an instruction's fields beyond their widths: `N` of DXYN is not 0 (R95, R208). -/

namespace Sys2Proof

/-- `true` when the instruction is one that some word of the spec's table stands for.
The word with `N = 0` in class D is the different instruction DXY0 (R93, R94). -/
def wellFormed : Instr → Bool
  | .opDXYN _ _ n => n != 0
  | _ => true

end Sys2Proof
end

