-- ==== Sys2Proof/Decode.lean ====
section
/-! DEFINITION. Decoding (R90 to R97) and encoding (R101) of the 16-bit instruction word. -/

namespace Sys2Proof

/-- Why bytes are no instruction. -/
inductive DecodeError where
  /-- The word is none of the table's (R96), or DXY0 in low-res (R97). Step reports it as `InvalidOpcode(op)` (R123). -/
  | invalidOpcode (op : Word)
  /-- Fewer than two bytes: no instruction word is there (R90). Never met by Step, whose fetch reads two bytes. -/
  | truncated
  deriving DecidableEq, Repr

/-- `op[15:12]`, the class (R91). -/
def classOf (op : Word) : BitVec 4 := op.extractLsb' 12 4

/-- `op[11:8]`, the field `X` (R91). -/
def fieldX (op : Word) : Reg := op.extractLsb' 8 4

/-- `op[7:4]`, the field `Y` (R91). -/
def fieldY (op : Word) : Reg := op.extractLsb' 4 4

/-- `op[3:0]`, the field `N` (R91). -/
def fieldN (op : Word) : Nibble := op.extractLsb' 0 4

/-- `op[7:0]`, the field `NN` (R91). -/
def fieldNN (op : Word) : Byte := op.extractLsb' 0 8

/-- `op[11:0]`, the field `NNN` (R91). -/
def fieldNNN (op : Word) : Addr12 := op.extractLsb' 0 12

/-- Class 0: the whole low 12 bits select (R94). -/
def decodeClass0 (op : Word) : Except DecodeError Instr :=
  if op = 0x00E0#16 then .ok .op00E0
  else if op = 0x00EE#16 then .ok .op00EE
  else if op.extractLsb' 4 12 = 0x00C#12 then .ok (.op00CN (fieldN op))
  else if op = 0x00FB#16 then .ok .op00FB
  else if op = 0x00FC#16 then .ok .op00FC
  else if op = 0x00FD#16 then .ok .op00FD
  else if op = 0x00FE#16 then .ok .op00FE
  else if op = 0x00FF#16 then .ok .op00FF
  else .error (.invalidOpcode op)

/-- Class 8: the low nibble selects (R94). -/
def decodeClass8 (op : Word) : Except DecodeError Instr :=
  match (fieldN op).toNat with
  | 0x0 => .ok (.op8XY0 (fieldX op) (fieldY op))
  | 0x1 => .ok (.op8XY1 (fieldX op) (fieldY op))
  | 0x2 => .ok (.op8XY2 (fieldX op) (fieldY op))
  | 0x3 => .ok (.op8XY3 (fieldX op) (fieldY op))
  | 0x4 => .ok (.op8XY4 (fieldX op) (fieldY op))
  | 0x5 => .ok (.op8XY5 (fieldX op) (fieldY op))
  | 0x6 => .ok (.op8XY6 (fieldX op) (fieldY op))
  | 0x7 => .ok (.op8XY7 (fieldX op) (fieldY op))
  | 0xE => .ok (.op8XYE (fieldX op) (fieldY op))
  | _ => .error (.invalidOpcode op)

/-- Class D: `N = 0` is DXY0, and only in high-res (R94, R97). -/
def decodeClassD (hires : Bool) (op : Word) : Except DecodeError Instr :=
  if fieldN op ≠ 0#4 then .ok (.opDXYN (fieldX op) (fieldY op) (fieldN op))
  else if hires then .ok (.opDXY0 (fieldX op) (fieldY op))
  else .error (.invalidOpcode op)

/-- Class E: the low byte selects (R94). -/
def decodeClassE (op : Word) : Except DecodeError Instr :=
  match (fieldNN op).toNat with
  | 0x9E => .ok (.opEX9E (fieldX op))
  | 0xA1 => .ok (.opEXA1 (fieldX op))
  | _ => .error (.invalidOpcode op)

/-- Class F: the low byte selects (R94). -/
def decodeClassF (op : Word) : Except DecodeError Instr :=
  match (fieldNN op).toNat with
  | 0x07 => .ok (.opFX07 (fieldX op))
  | 0x0A => .ok (.opFX0A (fieldX op))
  | 0x15 => .ok (.opFX15 (fieldX op))
  | 0x18 => .ok (.opFX18 (fieldX op))
  | 0x1E => .ok (.opFX1E (fieldX op))
  | 0x29 => .ok (.opFX29 (fieldX op))
  | 0x30 => .ok (.opFX30 (fieldX op))
  | 0x33 => .ok (.opFX33 (fieldX op))
  | 0x55 => .ok (.opFX55 (fieldX op))
  | 0x65 => .ok (.opFX65 (fieldX op))
  | 0x75 => .ok (.opFX75 (fieldX op))
  | 0x85 => .ok (.opFX85 (fieldX op))
  | _ => .error (.invalidOpcode op)

/-- `decode(op, HIRES)` of R94: total, one instruction or `InvalidOpcode(op)`. -/
def decodeWord (hires : Bool) (op : Word) : Except DecodeError Instr :=
  match (classOf op).toNat with
  | 0x0 => decodeClass0 op
  | 0x1 => .ok (.op1NNN (fieldNNN op))
  | 0x2 => .ok (.op2NNN (fieldNNN op))
  | 0x3 => .ok (.op3XNN (fieldX op) (fieldNN op))
  | 0x4 => .ok (.op4XNN (fieldX op) (fieldNN op))
  | 0x5 => if fieldN op = 0#4 then .ok (.op5XY0 (fieldX op) (fieldY op)) else .error (.invalidOpcode op)
  | 0x6 => .ok (.op6XNN (fieldX op) (fieldNN op))
  | 0x7 => .ok (.op7XNN (fieldX op) (fieldNN op))
  | 0x8 => decodeClass8 op
  | 0x9 => if fieldN op = 0#4 then .ok (.op9XY0 (fieldX op) (fieldY op)) else .error (.invalidOpcode op)
  | 0xA => .ok (.opANNN (fieldNNN op))
  | 0xB => .ok (.opBNNN (fieldNNN op))
  | 0xC => .ok (.opCXNN (fieldX op) (fieldNN op))
  | 0xD => decodeClassD hires op
  | 0xE => decodeClassE op
  | 0xF => decodeClassF op
  | _ => .error (.invalidOpcode op)

/-- The word of two bytes in ascending address order: the byte at the lower address is `op[15:8]` (R63). -/
def wordOfBytes (first second : Byte) : Word := first ++ second

/-- Decoding from a list of bytes in ascending address order: the instruction and the rest of the list. -/
def decode (hires : Bool) : List Byte → Except DecodeError (Instr × List Byte)
  | first :: second :: rest =>
    match decodeWord hires (wordOfBytes first second) with
    | .ok i => .ok (i, rest)
    | .error e => .error e
  | _ => .error .truncated

/-- The bytes of a word in ascending address order, high byte first (R63, R90). -/
def bytesOfWord (op : Word) : List Byte := [op.extractLsb' 8 8, op.extractLsb' 0 8]

/-- The word of an instruction: the row's `match` with the fields in their places (R95, R101). -/
def encode : Instr → Word
  | .op00CN n => 0x00C#12 ++ n
  | .op00E0 => 0x00E0#16
  | .op00EE => 0x00EE#16
  | .op00FB => 0x00FB#16
  | .op00FC => 0x00FC#16
  | .op00FD => 0x00FD#16
  | .op00FE => 0x00FE#16
  | .op00FF => 0x00FF#16
  | .op1NNN nnn => 0x1#4 ++ nnn
  | .op2NNN nnn => 0x2#4 ++ nnn
  | .op3XNN x nn => 0x3#4 ++ x ++ nn
  | .op4XNN x nn => 0x4#4 ++ x ++ nn
  | .op5XY0 x y => 0x5#4 ++ x ++ y ++ 0x0#4
  | .op6XNN x nn => 0x6#4 ++ x ++ nn
  | .op7XNN x nn => 0x7#4 ++ x ++ nn
  | .op8XY0 x y => 0x8#4 ++ x ++ y ++ 0x0#4
  | .op8XY1 x y => 0x8#4 ++ x ++ y ++ 0x1#4
  | .op8XY2 x y => 0x8#4 ++ x ++ y ++ 0x2#4
  | .op8XY3 x y => 0x8#4 ++ x ++ y ++ 0x3#4
  | .op8XY4 x y => 0x8#4 ++ x ++ y ++ 0x4#4
  | .op8XY5 x y => 0x8#4 ++ x ++ y ++ 0x5#4
  | .op8XY6 x y => 0x8#4 ++ x ++ y ++ 0x6#4
  | .op8XY7 x y => 0x8#4 ++ x ++ y ++ 0x7#4
  | .op8XYE x y => 0x8#4 ++ x ++ y ++ 0xE#4
  | .op9XY0 x y => 0x9#4 ++ x ++ y ++ 0x0#4
  | .opANNN nnn => 0xA#4 ++ nnn
  | .opBNNN nnn => 0xB#4 ++ nnn
  | .opCXNN x nn => 0xC#4 ++ x ++ nn
  | .opDXYN x y n => 0xD#4 ++ x ++ y ++ n
  | .opDXY0 x y => 0xD#4 ++ x ++ y ++ 0x0#4
  | .opEX9E x => 0xE#4 ++ x ++ 0x9E#8
  | .opEXA1 x => 0xE#4 ++ x ++ 0xA1#8
  | .opFX07 x => 0xF#4 ++ x ++ 0x07#8
  | .opFX0A x => 0xF#4 ++ x ++ 0x0A#8
  | .opFX15 x => 0xF#4 ++ x ++ 0x15#8
  | .opFX18 x => 0xF#4 ++ x ++ 0x18#8
  | .opFX1E x => 0xF#4 ++ x ++ 0x1E#8
  | .opFX29 x => 0xF#4 ++ x ++ 0x29#8
  | .opFX30 x => 0xF#4 ++ x ++ 0x30#8
  | .opFX33 x => 0xF#4 ++ x ++ 0x33#8
  | .opFX55 x => 0xF#4 ++ x ++ 0x55#8
  | .opFX65 x => 0xF#4 ++ x ++ 0x65#8
  | .opFX75 x => 0xF#4 ++ x ++ 0x75#8
  | .opFX85 x => 0xF#4 ++ x ++ 0x85#8

/-- The word of an instruction whose bits, numbered as `spec/opcode_table.json` numbers them, are `w`:
every instruction is one 16-bit word (R90), so bit `k` of the row is bit `k` of the word. -/
def tableWord (nbits w : Nat) : Word := BitVec.ofNat 16 (w % 2 ^ nbits)

/-- What the decoder reads from the instruction whose bits are `w`, laid out as the hardware stores it.
The row DXY0 carries the constraint `HIRES` (R95), so the table's rows are read in high-res. -/
def decodeTableWord (nbits w : Nat) : Option Instr :=
  match decode true (bytesOfWord (tableWord nbits w)) with
  | .ok (i, _) => some i
  | .error _ => none

end Sys2Proof
end

