-- ==== Sys2Proof/Config.lean ====
section
/-! DEFINITION. What the spec leaves OPEN (R5): the six quirk straps and the random input. Both are constants with no body, so nothing can be proved of their values. -/

namespace Sys2Proof

/-- The six quirk straps, one bit each, held constant for a run (R5, R32, R128). -/
structure Quirks where
  /-- `Q.shift`: 8XY6 and 8XYE shift `V[X]` in place. -/
  shift : Bool
  /-- `Q.memory_increment_by_x`: FX55 and FX65 add `X`, not `X + 1`, to `I`. -/
  memoryIncrementByX : Bool
  /-- `Q.memory_leave_i_unchanged`: FX55 and FX65 leave `I` unchanged. -/
  memoryLeaveIUnchanged : Bool
  /-- `Q.wrap`: sprite pixels past an edge wrap around. -/
  wrap : Bool
  /-- `Q.jump`: BNNN adds `V[X]`, not `V[0]`. -/
  jump : Bool
  /-- `Q.logic`: 8XY1, 8XY2 and 8XY3 clear VF. -/
  logic : Bool
  deriving DecidableEq, Repr, Inhabited

/-- DESIGN CHOICE (log entry 3). The setting of the straps before the host sets them: the spec gives no
default (R32, `spec/91_not_in_source.md` N6), so this is a free value. Safe: nothing can be proved of it. -/
opaque Config.straps : Quirks

/-- DESIGN CHOICE (log entry 4). The byte the random input presents to the `k`-th execution of CXNN: a free
draw under no law (R5, R36, R171, `spec/92_eei_decisions.md` D22). Safe: nothing can be proved of it. -/
opaque Config.randomByte : Nat → Byte

end Sys2Proof
end

