-- ==== Sys2Proof/Machine/State.lean ====
section
/-! DEFINITION. The state of the block (R37), the outcome of a Step (R250), and the state after Reset (R38). -/

namespace Sys2Proof.Machine

/-- What a Step reports (R250): a closed set of six. -/
inductive StepOutcome where
  /-- The instruction completed. -/
  | ok
  /-- The word fetched is no instruction; it is carried whole (R251). -/
  | invalidOpcode (op : Word)
  /-- A call with the stack full (R252). -/
  | stackOverflow
  /-- A return with the stack empty (R253). -/
  | stackUnderflow
  /-- An address, key index or sum outside its range (R254). -/
  | indexOutOfRange
  /-- 00FD: a request to end the run, not an error (R255). -/
  | exit
  deriving DecidableEq, Repr

/-- The state of the block: the tuple of R37, and three fields of the MODEL's own (`quirks`, `draws`, `outcome`). -/
structure State where
  /-- `MEM`, as the bytes that are not 0, at strictly rising addresses (R35, R60). -/
  mem : List Host.Cell
  /-- `V[0..15]`; VF is `V[15]` (R20, R41). -/
  v : Vector Byte 16
  /-- `I` (R22). -/
  i : Word
  /-- `PC` (R23). -/
  pc : Word
  /-- `STACK[0..SP-1]`, oldest first; its length is `SP` (R24, log entry 8). -/
  stack : List Word
  /-- `DT`, the delay timer (R25). -/
  dt : Byte
  /-- `ST`, the sound timer (R25). -/
  st : Byte
  /-- `RPL[0..15]`, the flag scratch registers (R26). -/
  rpl : Vector Byte 16
  /-- `KEYS[0..15]` (R27). -/
  keys : Vector Bool 16
  /-- `WAIT` (R28). -/
  wait : Bool
  /-- `HIRES` (R29). -/
  hires : Bool
  /-- `PIX`, row-major (R30). -/
  pix : List Bool
  /-- The six strap inputs (R32): the model's own field, which no Step writes (log entry 3). -/
  quirks : Quirks
  /-- How many bytes of the random input have been sampled: the model's own field (log entry 4). -/
  draws : Nat
  /-- The outcome output of the latest Step (R125): the model's own field, which nothing reads (log entry 2). -/
  outcome : StepOutcome
  deriving DecidableEq, Repr

/-- Nothing stops this machine: each fault of the spec is reported and the machine goes on (R259, R267), so it is
a NEXT state whose `outcome` names it (log entry 1), and no reason to stop is left. -/
inductive Fault where
  deriving DecidableEq, Repr

/-- Why the model gives an instruction no meaning. -/
inductive Refusal where
  /-- Raised by an arm of `exec` whose instruction has no meaning yet; no arm is left that raises it. Safe. -/
  | notModelled (mnemonic : String)
  deriving DecidableEq, Repr

/-- The machine right after Reset, with nothing loaded (R38, R280). Values the source does not state: log entries 2 to 7. -/
def State.reset : State where
  mem := []
  v := Vector.replicate 16 0
  i := 0
  pc := 0x200
  stack := []
  dt := 0
  st := 0
  rpl := Vector.replicate 16 0
  keys := Vector.replicate 16 false
  wait := false
  hires := false
  pix := List.replicate 2048 false
  quirks := Config.straps
  draws := 0
  outcome := .ok

end Sys2Proof.Machine
end

