-- ==== Sys2Proof/Machine/Ops.lean ====
section
/-! DEFINITION. The named operations over memory, registers, stack, display and outcome that every meaning is made of. -/

namespace Sys2Proof.Machine

/-- The answer of every meaning. -/
abbrev Answer := Host.Outcome State Fault Refusal

/-! ## Memory (R60, R62) -/

/-- `MEM_SIZE` (R5). -/
abbrev memSize : Nat := 4096

/-- What a byte that nothing has written reads as. DESIGN CHOICE (log entry 5): the default the spec suggests for
bytes the host does not load (`spec/92_eei_decisions.md` D5). Unsafe. -/
def unlistedByte : Byte := 0

/-- One byte of memory. -/
def memRead : List Host.Cell → Nat → Byte
  | [], _ => unlistedByte
  | (b, w) :: rest, a => if a = b then w else memRead rest a

/-- A cell for `a`, or none where it would say what an unlisted byte reads as. -/
def memCell (a : Nat) (w : Byte) : List Host.Cell := if w = unlistedByte then [] else [(a, w)]

/-- Writing one byte, keeping the canonical form. -/
def memWrite : List Host.Cell → Nat → Byte → List Host.Cell
  | [], a, w => memCell a w
  | (b, u) :: rest, a, w =>
    if a < b then memCell a w ++ (b, u) :: rest
    else if a = b then memCell a w ++ rest
    else (b, u) :: memWrite rest a w

/-- Writing bytes at ascending addresses (R64). -/
def memWriteAll : List Host.Cell → Nat → List Byte → List Host.Cell
  | m, _, [] => m
  | m, a, w :: ws => memWriteAll (memWrite m a w) (a + 1) ws

/-- Every address listed is above `lo` and below `MEM_SIZE`, the addresses rise, and no listed byte reads as an unlisted one. -/
def memWfFrom : Nat → List Host.Cell → Bool
  | _, [] => true
  | lo, (a, w) :: rest => decide (lo ≤ a) && decide (a < memSize) && decide (w ≠ unlistedByte) && memWfFrom (a + 1) rest

/-- The canonical form of memory: equal memories are equal lists. -/
def Memory.wf (m : List Host.Cell) : Bool := memWfFrom 0 m

/-- The byte at `a`, `MemRead(a, 1)` where the range test has passed (R62). -/
def readByte (s : State) (a : Nat) : Byte := memRead s.mem a

/-- `n` bytes from `a` on, in ascending order (R64). -/
def readBytes (s : State) (a n : Nat) : List Byte := (List.range n).map fun k => readByte s (a + k)

/-- Whether `MemRead` or `MemWrite` of the `n` bytes from `a` on raises `IndexOutOfRange`: the last address
is beyond 4095, with no reduction (R62, R126). -/
def outOfRange (a n : Nat) : Bool := decide (memSize < a + n)

/-- The bytes stored from `a` on (R62). -/
def writeBytes (a : Nat) (ws : List Byte) (s : State) : State := { s with mem := memWriteAll s.mem a ws }

/-! ## Registers (R20 to R23, R25, R26) -/

/-- `V[k]`. -/
def getV (s : State) (k : Reg) : Byte := s.v[k.toNat]'k.isLt

/-- `V[k] <- b`. -/
def setV (k : Reg) (b : Byte) (s : State) : State := { s with v := s.v.set k.toNat b k.isLt }

/-- The register VF, `V[15]` (R21). -/
def regF : Reg := 15

/-- `VF <- b`. -/
def setVF (b : Byte) (s : State) : State := setV regF b s

/-- The registers `V[0]` to `V[x]`, in order. -/
def regsUpTo (x : Reg) (s : State) : List Byte := s.v.toList.take (x.toNat + 1)

/-- `for k in 0..n-1: file[k] <- f k`, the loop of R185 to R188 over a file of sixteen bytes; the others are kept. -/
def overwrite (f : Nat → Byte) : Nat → Vector Byte 16 → Vector Byte 16
  | 0, file => file
  | n + 1, file => (overwrite f n file).setIfInBounds n (f n)

/-- `V[k] <- f k` for `k` in `0..x`; the registers above `x` keep their values. -/
def loadRegsUpTo (x : Reg) (f : Nat → Byte) (s : State) : State := { s with v := overwrite f (x.toNat + 1) s.v }

/-- `RPL[k]`. -/
def getRpl (s : State) (k : Reg) : Byte := s.rpl[k.toNat]'k.isLt

/-- `RPL[k] <- V[k]` for `k` in `0..x`; the flag registers above `x` keep their values. -/
def saveRpl (x : Reg) (s : State) : State := { s with rpl := overwrite (fun k => s.v.toList.getD k 0) (x.toNat + 1) s.rpl }

/-- `V[k] <- RPL[k]` for `k` in `0..x`. -/
def restoreRpl (x : Reg) (s : State) : State := loadRegsUpTo x (fun k => s.rpl.toList.getD k 0) s

/-- `I <- w`. -/
def setI (w : Word) (s : State) : State := { s with i := w }

/-- `pc <- w`. -/
def setPc (w : Word) (s : State) : State := { s with pc := w }

/-- `pc <- pc + 2`, the advance of Step (R122) and of a taken skip (R23). -/
def advance (s : State) : State := setPc (s.pc + 2) s

/-- `pc <- pc - 2`, FX0A's repetition (R233). -/
def rollBack (s : State) : State := setPc (s.pc - 2) s

/-- `DT <- b`. -/
def setDt (b : Byte) (s : State) : State := { s with dt := b }

/-- `ST <- b`. -/
def setSt (b : Byte) (s : State) : State := { s with st := b }

/-- `WAIT <- b`. -/
def setWait (b : Bool) (s : State) : State := { s with wait := b }

/-! ## Stack (R24) -/

/-- `STACK_CAPACITY` (R5, R24, `spec/90_conflicts.md` C1, log entry 8). -/
abbrev stackCapacity : Nat := 16

/-- `SP`: the number of entries held. -/
def State.sp (s : State) : Nat := s.stack.length

/-- `STACK[SP] <- w; SP <- SP + 1`. -/
def push (w : Word) (s : State) : State := { s with stack := s.stack ++ [w] }

/-- `STACK[SP-1]`, or none where the stack is empty. -/
def topOfStack (s : State) : Option Word := s.stack.getLast?

/-- `SP <- SP - 1`. -/
def dropTop (s : State) : State := { s with stack := s.stack.dropLast }

/-! ## Keys (R27) -/

/-- `KEYS[k]`; a state holds sixteen. -/
def keyDown (s : State) (k : Nat) : Bool := s.keys.toList.getD k false

/-- The least `k` in `0..15` with `KEYS[k]`, or none where no key is down (R233). -/
def lowestKey (s : State) : Option Nat := (List.range 16).find? fun k => keyDown s k

/-! ## The display (R200, R201, R211) -/

/-- `cols()` (R200). -/
def cols (hires : Bool) : Nat := if hires then 128 else 64

/-- `rows()` (R200). -/
def rows (hires : Bool) : Nat := if hires then 64 else 32

/-- `len()` (R200). -/
def screenLen (hires : Bool) : Nat := cols hires * rows hires

/-- `index(row, col)` (R200). -/
def pixelIndex (hires : Bool) (row col : Nat) : Nat := row * cols hires + col

/-- An all-off bitmap of the mode's size. -/
def blankScreen (hires : Bool) : List Bool := List.replicate (screenLen hires) false

/-- `PIX[index(row, col)]`. -/
def pixel (s : State) (row col : Nat) : Bool := s.pix.getD (pixelIndex s.hires row col) false

/-- `PIX <- p`. -/
def setPix (p : List Bool) (s : State) : State := { s with pix := p }

/-- Going to a mode: the mode bit, and an all-off bitmap of the new size (R206, R207). -/
def enterMode (hires : Bool) (s : State) : State := { s with hires := hires, pix := blankScreen hires }

/-- `PIX[(k + d) mod len()] <- old[k]` for all `k` at once, `d <= len()`: the last `d` pixels come first (R203). -/
def rotatePix (len d : Nat) (pix : List Bool) : List Bool := pix.drop (len - d) ++ pix.take (len - d)

/-- `Toggle(row, col)` (R201): the new bitmap and whether an on pixel was turned off, or none where it raises
`IndexOutOfRange`, which no draw reaches (R77). -/
def toggle (hires : Bool) (row col : Nat) (pix : List Bool) : Option (List Bool × Bool) :=
  if rows hires ≤ row ∨ cols hires ≤ col then none
  else
    let k := pixelIndex hires row col
    let was := pix.getD k false
    some (pix.set k (!was), was)

/-- Where `Plot(x0, y0, dx, dy)` puts its pixel, as (row, column), or none where the pixel is clipped (R211). -/
def plotTarget (hires wrap : Bool) (x0 y0 dx dy : Nat) : Option (Nat × Nat) :=
  let x := x0 + dx
  let y := y0 + dy
  if wrap then some (y % rows hires, x % cols hires)
  else if cols hires ≤ x ∨ rows hires ≤ y then none
  else some (y, x)

/-- `Plot(x0, y0, dx, dy)` (R211): a clipped pixel is not drawn and is no collision. -/
def plot (hires wrap : Bool) (x0 y0 dx dy : Nat) (pix : List Bool) : Option (List Bool × Bool) :=
  match plotTarget hires wrap x0 y0 dx dy with
  | none => some (pix, false)
  | some (row, col) => toggle hires row col pix

/-- Plotting the set bits of a sprite, given as (dx, dy), one after the other: the bitmap, and `hit` (R208). -/
def plotAll (hires wrap : Bool) (x0 y0 : Nat) : List (Nat × Nat) → List Bool → Option (List Bool × Bool)
  | [], pix => some (pix, false)
  | (dx, dy) :: rest, pix =>
    match plot hires wrap x0 y0 dx dy pix with
    | none => none
    | some (pix1, p) =>
      match plotAll hires wrap x0 y0 rest pix1 with
      | none => none
      | some (pix2, hit) => some (pix2, p || hit)

/-! ## The random input (R36, R171) -/

/-- The byte the random input presents now. -/
def randomInput (s : State) : Byte := Config.randomByte s.draws

/-- One sample has been taken. -/
def sampled (s : State) : State := { s with draws := s.draws + 1 }

/-! ## Ending a Step (R125, R250)

The block has no trap entry beyond the report (R258): no saved PC, no handler, no mode change, and no return from a
trap (R259). Every meaning ends in one of these three. -/

/-- The state with the outcome output of the Step. -/
def report (o : StepOutcome) (s : State) : State := { s with outcome := o }

/-- The instruction completed: outcome `Ok`. -/
def complete (s : State) : Answer := .next (report .ok s)

/-- `raise <Fault>`: the Step ends at once, the machine goes on from the state it leaves, which is `s` (R126, R258). -/
def raise (o : StepOutcome) (s : State) : Answer := .next (report o s)

/-- `signal Exit` (R255). -/
def signalExit (s : State) : Answer := .next (report .exit s)

/-! ## Fetch (R121) -/

/-- `Fetch`: the two bytes at `pc`, or none where it raises `IndexOutOfRange` (`pc > 4094`). -/
def fetchBytes (s : State) : Option (Byte × Byte) :=
  if outOfRange s.pc.toNat 2 then none else some (readByte s s.pc.toNat, readByte s (s.pc.toNat + 1))

/-- `op`, the big-endian word at `pc` (R63, R121). -/
def fetch (s : State) : Option Word := (fetchBytes s).map fun p => wordOfBytes p.1 p.2

/-- Whether a word is DXY0's, the one row of the table that carries the constraint `HIRES` (R95, R97). -/
def isDxy0 (op : Word) : Bool := classOf op == 0xD#4 && fieldN op == 0#4

/-- The display in high-res, as 00FF leaves it: no change where it is there already (R207). -/
def ensureHires (s : State) : State := if s.hires then s else enterMode true s

/-- A word placed at `pc`, where Step fetches its next instruction, as HostLoad places it (R282). Where it is DXY0's
word the display is put in high-res, without which that word is no instruction (R97, log entry 9). -/
def placeWord (op : Word) (s : State) : State :=
  let t := if isDxy0 op then ensureHires s else s
  if outOfRange t.pc.toNat 2 then t else writeBytes t.pc.toNat (bytesOfWord op) t

end Sys2Proof.Machine
end

