-- ==== Sys2Proof/Machine/Flags.lean ====
section
/-! DEFINITION. Every value VF receives as a flag (the table of R21), and the order of the two writes (R127). -/

namespace Sys2Proof.Machine

/-- A flag as the byte VF holds: 1 or 0 (R21). -/
def flagByte (b : Bool) : Byte := if b then 1 else 0

/-- The carry of 8XY4: the sum exceeds 255 (R166, R172). -/
def carryOut (a b : Byte) : Bool := decide (255 < a.toNat + b.toNat)

/-- "NOT borrow" of `a - b`: `a >= b` (R167, R169, R172). -/
def notBorrow (a b : Byte) : Bool := decide (b.toNat ≤ a.toNat)

/-- The bit 8XY6 shifts out: `s[0]` (R168). -/
def lowBit (a : Byte) : Bool := a.getLsbD 0

/-- The bit 8XYE shifts out: `s[7]` (R170). -/
def highBit (a : Byte) : Bool := a.getLsbD 7

/-- The result register first and VF last, so that for `X = 15` the flag is what VF holds (R127; the spec's
decision D8, log entry 13). -/
def setResultAndFlag (x : Reg) (result : Byte) (flag : Bool) (s : State) : State :=
  setVF (flagByte flag) (setV x result s)

/-- The result of 8XY1, 8XY2 and 8XY3, then VF cleared where `Q.logic` is true (R128, R163). -/
def setLogicResult (x : Reg) (result : Byte) (s : State) : State :=
  if s.quirks.logic then setVF 0 (setV x result s) else setV x result s

end Sys2Proof.Machine
end

