-- ==== Sys2Proof/Machine/Operands.lean ====
section
/-! DEFINITION. The operand forms: immediates, what the quirks select, glyph addresses, digits, the I adjustment, sprites. -/

namespace Sys2Proof.Machine

/-- `zext_16(NNN)` (R93). -/
def addressOf (nnn : Addr12) : Word := nnn.setWidth 16

/-- A taken skip is a further `pc + 2` (R23, R144). -/
def skipIf (taken : Bool) (s : State) : State := if taken then advance s else s

/-- What BNNN adds: `V[X]` with `X = NNN[11:8]` where `Q.jump` is true, else `V[0]` (R148). -/
def jumpOffset (nnn : Addr12) (s : State) : Byte :=
  if s.quirks.jump then getV s (nnn.extractLsb' 8 4) else getV s 0

/-- What 8XY6 and 8XYE shift: `V[X]` where `Q.shift` is true, else `V[Y]` (R168, R170). -/
def shiftSource (x y : Reg) (s : State) : Byte := if s.quirks.shift then getV s x else getV s y

/-- `FONT_BASE` (R5, R182). -/
def fontBase : Nat := 0x000

/-- `FONT_STRIDE` (R5, R182). -/
def fontStride : Nat := 5

/-- `BIGFONT_BASE` (R5, R183). -/
def bigfontBase : Nat := 0x050

/-- `BIGFONT_STRIDE` (R5, R183, `spec/90_conflicts.md` C8, log entry 14). -/
def bigfontStride : Nat := 5

/-- The address of the glyph numbered `b`, not masked to a digit (R182, R183). -/
def glyphAddress (base stride : Nat) (b : Byte) : Word := BitVec.ofNat 16 (b.toNat * stride + base)

/-- The hundreds, tens and ones of a byte (R184). -/
def decimalDigits (b : Byte) : List Byte :=
  [BitVec.ofNat 8 (b.toNat / 100), BitVec.ofNat 8 (b.toNat / 10 % 10), BitVec.ofNat 8 (b.toNat % 10)]

/-- `AdjustI(i, x)` (R189); both quirks true leaves `I` unchanged (`spec/90_conflicts.md` C6, log entry 20). -/
def adjustI (q : Quirks) (i : Word) (x : Reg) : Word :=
  if q.memoryLeaveIUnchanged then i
  else if q.memoryIncrementByX then i + x.setWidth 16
  else i + x.setWidth 16 + 1

/-- `V[X]` as a key index, or none where it is above 15 (R230; the spec's decision D11, log entry 18). -/
def keyIndex (x : Reg) (s : State) : Option Nat :=
  if 15 < (getV s x).toNat then none else some (getV s x).toNat

/-- The columns of the set bits of one sprite row, the most significant bit leftmost (R208, R209; general
knowledge G1, log entry 15). -/
def rowColumns (w : Nat) (bits : BitVec w) : List Nat := (List.range w).filter fun c => bits.getLsbD (w - 1 - c)

/-- The set bits of a sprite as (dx, dy), row by row, the first row at the top (R208). -/
def spritePoints (w : Nat) (sprite : List (BitVec w)) : List (Nat × Nat) :=
  sprite.zipIdx.flatMap fun p => (rowColumns w p.1).map fun c => (c, p.2)

/-- The rows of DXYN's sprite: the `n` bytes from `I` on (R208). -/
def sprite8 (n : Nibble) (s : State) : List (BitVec 8) := readBytes s s.i.toNat n.toNat

/-- The rows of DXY0's sprite: sixteen pairs of bytes from `I` on, the lower address on the left (R209; general
knowledge G2, log entry 15). -/
def sprite16 (s : State) : List (BitVec 16) :=
  (List.range 16).map fun r => readByte s (s.i.toNat + 2 * r) ++ readByte s (s.i.toNat + 2 * r + 1)

/-- `x0`, the start column of a sprite (R208). -/
def startColumn (x : Reg) (s : State) : Nat := (getV s x).toNat % cols s.hires

/-- `y0`, the start row of a sprite (R208). -/
def startRow (y : Reg) (s : State) : Nat := (getV s y).toNat % rows s.hires

end Sys2Proof.Machine
end

