-- ==== Sys2Proof/Machine/Alu.lean ====
section
/-! DEFINITION. Register loads and the ALU (`spec/42_alu.md`). None of these writes `pc` or can fault. -/

namespace Sys2Proof.Machine

/-- 6XNN, load immediate (R160). -/
def exec6XNN (x : Reg) (nn : Byte) (s : State) : Answer := complete (setV x nn s)

/-- 7XNN, add immediate modulo 256 without a flag (R161). -/
def exec7XNN (x : Reg) (nn : Byte) (s : State) : Answer := complete (setV x (getV s x + nn) s)

/-- 8XY0, copy register (R162). -/
def exec8XY0 (x y : Reg) (s : State) : Answer := complete (setV x (getV s y) s)

/-- 8XY1, bitwise or (R163). -/
def exec8XY1 (x y : Reg) (s : State) : Answer := complete (setLogicResult x (getV s x ||| getV s y) s)

/-- 8XY2, bitwise and (R164). -/
def exec8XY2 (x y : Reg) (s : State) : Answer := complete (setLogicResult x (getV s x &&& getV s y) s)

/-- 8XY3, bitwise exclusive or (R165). -/
def exec8XY3 (x y : Reg) (s : State) : Answer := complete (setLogicResult x (getV s x ^^^ getV s y) s)

/-- 8XY4, add with carry out (R166). -/
def exec8XY4 (x y : Reg) (s : State) : Answer :=
  complete (setResultAndFlag x (getV s x + getV s y) (carryOut (getV s x) (getV s y)) s)

/-- 8XY5, subtract (R167). -/
def exec8XY5 (x y : Reg) (s : State) : Answer :=
  complete (setResultAndFlag x (getV s x - getV s y) (notBorrow (getV s x) (getV s y)) s)

/-- 8XY6, logical shift right by one of the selected source (R168). -/
def exec8XY6 (x y : Reg) (s : State) : Answer :=
  complete (setResultAndFlag x (shiftSource x y s >>> 1) (lowBit (shiftSource x y s)) s)

/-- 8XY7, reverse subtract (R169). -/
def exec8XY7 (x y : Reg) (s : State) : Answer :=
  complete (setResultAndFlag x (getV s y - getV s x) (notBorrow (getV s y) (getV s x)) s)

/-- 8XYE, shift left by one of the selected source (R170). -/
def exec8XYE (x y : Reg) (s : State) : Answer :=
  complete (setResultAndFlag x (shiftSource x y s <<< 1) (highBit (shiftSource x y s)) s)

/-- CXNN, one sample of the random input, masked (R171). -/
def execCXNN (x : Reg) (nn : Byte) (s : State) : Answer :=
  complete (sampled (setV x (randomInput s &&& nn) s))

end Sys2Proof.Machine
end

