-- ==== Sys2Proof/Machine/ControlFlow.lean ====
section
/-! DEFINITION. Control transfer, skips, call, return, exit (`spec/41_control_flow.md`). `pc` is already advanced (R122). -/

namespace Sys2Proof.Machine

/-- 00EE, return (R140). -/
def exec00EE (s : State) : Answer :=
  match topOfStack s with
  | none => raise .stackUnderflow s
  | some a => complete (setPc a (dropTop s))

/-- 00FD, exit (R141). -/
def exec00FD (s : State) : Answer := signalExit s

/-- 1NNN, jump (R142). -/
def exec1NNN (nnn : Addr12) (s : State) : Answer := complete (setPc (addressOf nnn) s)

/-- 2NNN, call: the advanced `pc` is pushed (R143). -/
def exec2NNN (nnn : Addr12) (s : State) : Answer :=
  if stackCapacity ≤ s.sp then raise .stackOverflow s
  else complete (setPc (addressOf nnn) (push s.pc s))

/-- 3XNN, skip if `VX` equals `NN` (R144). -/
def exec3XNN (x : Reg) (nn : Byte) (s : State) : Answer := complete (skipIf (getV s x == nn) s)

/-- 4XNN, skip if `VX` differs from `NN` (R145). -/
def exec4XNN (x : Reg) (nn : Byte) (s : State) : Answer := complete (skipIf (getV s x != nn) s)

/-- 5XY0, skip if `VX` equals `VY` (R146). -/
def exec5XY0 (x y : Reg) (s : State) : Answer := complete (skipIf (getV s x == getV s y) s)

/-- 9XY0, skip if `VX` differs from `VY` (R147). -/
def exec9XY0 (x y : Reg) (s : State) : Answer := complete (skipIf (getV s x != getV s y) s)

/-- BNNN, jump with offset, the sum not reduced (R148). -/
def execBNNN (nnn : Addr12) (s : State) : Answer :=
  complete (setPc (addressOf nnn + (jumpOffset nnn s).setWidth 16) s)

end Sys2Proof.Machine
end

