-- ==== Sys2Proof/Machine/Display.lean ====
section
/-! DEFINITION. The bitmap display controller (`spec/44_display.md`). None of these writes `pc`. -/

namespace Sys2Proof.Machine

/-- 00E0, clear display (R202). -/
def exec00E0 (s : State) : Answer := complete (setPix (blankScreen s.hires) s)

/-- 00CN, scroll down: a rotation by `N` whole rows (R203; the spec's decision D19, log entry 16). -/
def exec00CN (n : Nibble) (s : State) : Answer :=
  complete (setPix (rotatePix (screenLen s.hires) (n.toNat * cols s.hires) s.pix) s)

/-- 00FB, scroll right: a rotation by 4 (R204). -/
def exec00FB (s : State) : Answer := complete (setPix (rotatePix (screenLen s.hires) 4 s.pix) s)

/-- 00FC, scroll left: a rotation by `len() - 4` (R205). -/
def exec00FC (s : State) : Answer :=
  complete (setPix (rotatePix (screenLen s.hires) (screenLen s.hires - 4) s.pix) s)

/-- 00FE, switch to low-res; nothing changes where the mode is low-res already (R206). -/
def exec00FE (s : State) : Answer := complete (if s.hires then enterMode false s else s)

/-- 00FF, switch to high-res; nothing changes where the mode is high-res already (R207). -/
def exec00FF (s : State) : Answer := complete (ensureHires s)

/-- The body of both draws (R208, R209): the range test of all the sprite's bytes first, the start position read
before VF is written, the pixels plotted, VF last. A raise inside Toggle is unreachable (R77, log entry 26). -/
def drawSprite (nbytes : Nat) (points : List (Nat × Nat)) (x y : Reg) (s : State) : Answer :=
  if outOfRange s.i.toNat nbytes then raise .indexOutOfRange s
  else
    match plotAll s.hires s.quirks.wrap (startColumn x s) (startRow y s) points s.pix with
    | none => raise .indexOutOfRange s
    | some (pix, hit) => complete (setVF (flagByte hit) (setPix pix s))

/-- DXYN, draw an 8-wide sprite of `N` rows (R208). -/
def execDXYN (x y : Reg) (n : Nibble) (s : State) : Answer :=
  drawSprite n.toNat (spritePoints 8 (sprite8 n s)) x y s

/-- DXY0, draw a 16 by 16 sprite (R209). In low-res its word is no instruction (R97) and the decoder never gives it
to `exec`; asked all the same, `exec` reports what the Step reports (log entry 9). -/
def execDXY0 (x y : Reg) (s : State) : Answer :=
  if s.hires then drawSprite 32 (spritePoints 16 (sprite16 s)) x y s
  else raise (.invalidOpcode (encode (.opDXY0 x y))) s

end Sys2Proof.Machine
end

