-- ==== Sys2Proof/Machine/IndexMemory.lean ====
section
/-! DEFINITION. Index register, memory transfers, flag registers (`spec/43_index_memory.md`). Range tests come first (R126). -/

namespace Sys2Proof.Machine

/-- ANNN, load index (R180). -/
def execANNN (nnn : Addr12) (s : State) : Answer := complete (setI (addressOf nnn) s)

/-- FX1E, add register to index; a sum that 16 bits cannot hold raises `IndexOutOfRange` (R181; the spec's
decision D13, log entry 18). -/
def execFX1E (x : Reg) (s : State) : Answer :=
  if 0xFFFF < s.i.toNat + (getV s x).toNat then raise .indexOutOfRange s
  else complete (setI (s.i + (getV s x).setWidth 16) s)

/-- FX29, address of a small-font glyph (R182). -/
def execFX29 (x : Reg) (s : State) : Answer :=
  complete (setI (glyphAddress fontBase fontStride (getV s x)) s)

/-- FX30, address of a large-font glyph (R183). -/
def execFX30 (x : Reg) (s : State) : Answer :=
  complete (setI (glyphAddress bigfontBase bigfontStride (getV s x)) s)

/-- FX33, store decimal digits at `I`, `I+1`, `I+2` (R184). -/
def execFX33 (x : Reg) (s : State) : Answer :=
  if outOfRange s.i.toNat 3 then raise .indexOutOfRange s
  else complete (writeBytes s.i.toNat (decimalDigits (getV s x)) s)

/-- FX55, store registers, then adjust `I` (R185). -/
def execFX55 (x : Reg) (s : State) : Answer :=
  if outOfRange s.i.toNat (x.toNat + 1) then raise .indexOutOfRange s
  else complete (setI (adjustI s.quirks s.i x) (writeBytes s.i.toNat (regsUpTo x s) s))

/-- FX65, load registers, then adjust `I` (R186). -/
def execFX65 (x : Reg) (s : State) : Answer :=
  if outOfRange s.i.toNat (x.toNat + 1) then raise .indexOutOfRange s
  else complete (setI (adjustI s.quirks s.i x) (loadRegsUpTo x (fun k => readByte s (s.i.toNat + k)) s))

/-- FX75, save registers to the flag registers (R187). -/
def execFX75 (x : Reg) (s : State) : Answer := complete (saveRpl x s)

/-- FX85, restore registers from the flag registers (R188). -/
def execFX85 (x : Reg) (s : State) : Answer := complete (restoreRpl x s)

end Sys2Proof.Machine
end

