-- ==== Sys2Proof/Machine/KeysTimers.lean ====
section
/-! DEFINITION. Skips on a key, the key wait, the timers (`spec/45_keys_timers.md`). -/

namespace Sys2Proof.Machine

/-- EX9E, skip if key `VX` is pressed (R230). -/
def execEX9E (x : Reg) (s : State) : Answer :=
  match keyIndex x s with
  | none => raise .indexOutOfRange s
  | some k => complete (skipIf (keyDown s k) s)

/-- EXA1, skip if key `VX` is not pressed (R231). -/
def execEXA1 (x : Reg) (s : State) : Answer :=
  match keyIndex x s with
  | none => raise .indexOutOfRange s
  | some k => complete (skipIf (!keyDown s k) s)

/-- FX07, read delay timer (R232). -/
def execFX07 (x : Reg) (s : State) : Answer := complete (setV x s.dt s)

/-- FX0A, wait for a key: the four cases (a) to (d) of R233 (case (c) is the spec's decision D12, log entry 17). -/
def execFX0A (x : Reg) (s : State) : Answer :=
  match lowestKey s, s.wait with
  | none, false => complete (rollBack s)
  | some low, false => complete (rollBack (setWait true (setV x (BitVec.ofNat 8 low) s)))
  | some _, true => complete (rollBack s)
  | none, true => complete (setWait false s)

/-- FX15, write delay timer (R234). -/
def execFX15 (x : Reg) (s : State) : Answer := complete (setDt (getV s x) s)

/-- FX18, write sound timer (R235). -/
def execFX18 (x : Reg) (s : State) : Answer := complete (setSt (getV s x) s)

end Sys2Proof.Machine
end

