-- ==== Sys2Proof/Machine/Step.lean ====
section
/-! DEFINITION. The Step operation (R120): fetch, advance, decode, execute. -/

namespace Sys2Proof.Machine

/-- One Step (R120). A fetch fault changes nothing (R121); a word that is no instruction is reported with `pc`
advanced (R122, R123); else the decoded instruction runs with `pc` advanced (R124). -/
def step (s : State) : Host.Outcome State Fault Refusal :=
  match fetch s with
  | none => raise .indexOutOfRange s
  | some op =>
    match decodeWord s.hires op with
    | .error _ => raise (.invalidOpcode op) (advance s)
    | .ok i => exec i (advance s)

/-- `s` with the instruction whose bits are `w` placed where `step` fetches its next instruction: it stands for the
host's load of a program (R282, log entry 11). -/
def State.withFetchWord (s : State) (nbits w : Nat) : State := placeWord (tableWord nbits w) s

end Sys2Proof.Machine
end

