-- ==== Sys2Proof/Machine/HostPort.lean ====
section
/-! DEFINITION. What the host does to the block between Steps, and what it reads out (R10, R293). The order in which it does so is OPEN (R287), so none of it is part of `step`. -/

namespace Sys2Proof.Machine

/-- `Tick` on one timer: saturating at zero (R236). -/
def countDown (b : Byte) : Byte := if b = 0 then 0 else b - 1

/-- `Tick` (R236). -/
def tick (s : State) : State := setDt (countDown s.dt) (setSt (countDown s.st) s)

/-- `KeyEvent(k, pressed)` (R237). -/
def keyEvent (k : BitVec 4) (pressed : Bool) (s : State) : State :=
  { s with keys := s.keys.set k.toNat pressed k.isLt }

/-- `Reset` (R280): everything but `MEM` and `RPL`, which only HostLoad and Steps write, the straps, which the host
holds, and the count of random samples, which is no state of the block (R39, log entry 28). -/
def hostReset (s : State) : State :=
  { State.reset with mem := s.mem, rpl := s.rpl, quirks := s.quirks, draws := s.draws }

/-- What the host brings to a run (R282): the straps, bytes of memory in the order it writes them, the flag registers. -/
structure Boot where
  /-- The six quirk straps, held for the whole run. -/
  straps : Quirks
  /-- HostLoad of memory: fonts, program, data; a later write wins. -/
  bytes : List (Addr12 × Byte)
  /-- HostLoad of the flag registers, zero-filled where the host has none. -/
  rpl : Vector Byte 16
  deriving DecidableEq, Repr

/-- HostLoad of one byte of memory. -/
def hostLoad (p : Addr12 × Byte) (s : State) : State := writeBytes p.1.toNat [p.2] s

/-- Reset and HostLoad: the state at the first Step of a run (R282). -/
def boot (b : Boot) (s : State) : State :=
  b.bytes.foldl (fun t p => hostLoad p t) { hostReset s with quirks := b.straps, rpl := b.rpl }

/-- What the host may issue during a run (R283, R293). -/
inductive RunOp where
  /-- One Step. -/
  | step
  /-- One Tick. -/
  | tick
  /-- One event on a key latch; the port's index is four bits wide (R237). -/
  | keyEvent (k : BitVec 4) (pressed : Bool)
  deriving DecidableEq, Repr

/-- One operation of a run. -/
def perform (o : RunOp) (s : State) : Answer :=
  match o with
  | .step => step s
  | .tick => .next (tick s)
  | .keyEvent k pressed => .next (keyEvent k pressed s)

/-- A run under a schedule of the host's: it ends at the first Step whose outcome is `Exit` (R283); a fault does not
end it (R259). -/
def runOps : List RunOp → State → Answer
  | [], s => .next s
  | o :: os, s =>
    match perform o s with
    | .next t => if o = .step ∧ t.outcome = .exit then .next t else runOps os t
    | .fault r => .fault r
    | .refused r => .refused r

/-- The display read-out: the mode and the bitmap (R210). -/
def displayReadout (s : State) : Bool × List Bool := (s.hires, s.pix)

/-- The sound level output (R238). -/
def soundLevel (s : State) : Bool := s.st != 0

/-- The flag registers as the host persists them after the run (R283). -/
def rplReadout (s : State) : List Byte := s.rpl.toList

/-- The code of an outcome on the status output (R250; the numbers are the spec's decision D17). -/
def outcomeCode : StepOutcome → Nat
  | .ok => 0
  | .invalidOpcode _ => 1
  | .stackOverflow => 2
  | .stackUnderflow => 3
  | .indexOutOfRange => 4
  | .exit => 5

end Sys2Proof.Machine
end

