-- ==== Sys2Proof/Safety.lean ====
section
/-! DEFINITION. The terms claims are stated in: what a Step may change, the invariants of R40 and R233, the words of the encoding rules, which pixels a sprite covers. -/

namespace Sys2Proof.Safety

open Sys2Proof Sys2Proof.Machine

/-! ## What changes and what does not -/

/-- The pieces of state (R37), and the model's own straps and draw counter. The outcome output is not among them:
every Step writes it (R125). -/
inductive Component where
  | mem | v | i | pc | stack | dt | st | rpl | keys | wait | hires | pix | quirks | draws
  deriving DecidableEq, Repr

/-- A piece of state is the same before and after; memory byte by byte, at every address. -/
def Same (s t : State) : Component → Prop
  | .mem => ∀ a, readByte t a = readByte s a
  | .v => ∀ k, getV t k = getV s k
  | .i => t.i = s.i
  | .pc => t.pc = s.pc
  | .stack => t.stack = s.stack
  | .dt => t.dt = s.dt
  | .st => t.st = s.st
  | .rpl => ∀ k, getRpl t k = getRpl s k
  | .keys => t.keys = s.keys
  | .wait => t.wait = s.wait
  | .hires => t.hires = s.hires
  | .pix => t.pix = s.pix
  | .quirks => t.quirks = s.quirks
  | .draws => t.draws = s.draws

/-- The frame: every piece of state not listed is the same before and after. -/
def OnlyChanges (changed : List Component) (s t : State) : Prop := ∀ c, c ∉ changed → Same s t c

/-- The registers other than those listed are the same before and after. -/
def KeepsRegsBut (changed : List Reg) (s t : State) : Prop := ∀ k, k ∉ changed → getV t k = getV s k

/-- The bytes of memory outside `n` bytes from `a` on read as before. -/
def KeepsBytesOutside (a n : Nat) (s t : State) : Prop := ∀ b, (b < a ∨ a + n ≤ b) → readByte t b = readByte s b

/-- What each instruction may write when it does not fault (the table of R76 and R39). `pc` stands only where the
instruction itself writes it; the advance belongs to Step (R122). -/
def writesOf : Instr → List Component
  | .op00E0 | .op00CN _ | .op00FB | .op00FC => [.pix]
  | .op00FE | .op00FF => [.hires, .pix]
  | .op00EE | .op2NNN _ => [.stack, .pc]
  | .op00FD => []
  | .op1NNN _ | .opBNNN _ => [.pc]
  | .op3XNN _ _ | .op4XNN _ _ | .op5XY0 _ _ | .op9XY0 _ _ => [.pc]
  | .opEX9E _ | .opEXA1 _ => [.pc]
  | .op6XNN _ _ | .op7XNN _ _ => [.v]
  | .op8XY0 _ _ | .op8XY1 _ _ | .op8XY2 _ _ | .op8XY3 _ _ | .op8XY4 _ _ => [.v]
  | .op8XY5 _ _ | .op8XY6 _ _ | .op8XY7 _ _ | .op8XYE _ _ => [.v]
  | .opCXNN _ _ => [.v, .draws]
  | .opANNN _ | .opFX1E _ | .opFX29 _ | .opFX30 _ => [.i]
  | .opDXYN _ _ _ | .opDXY0 _ _ => [.v, .pix]
  | .opFX07 _ => [.v]
  | .opFX0A _ => [.v, .wait, .pc]
  | .opFX15 _ => [.dt]
  | .opFX18 _ => [.st]
  | .opFX33 _ => [.mem]
  | .opFX55 _ => [.mem, .i]
  | .opFX65 _ => [.v, .i]
  | .opFX75 _ => [.rpl]
  | .opFX85 _ => [.v]

/-- Whether an instruction may write register `k` (R21, R76): its own destination, the registers `V[0..X]` of FX65
and FX85, and VF where the instruction writes a flag. -/
def mayWriteReg (q : Quirks) (k : Reg) : Instr → Bool
  | .op6XNN x _ | .op7XNN x _ | .op8XY0 x _ | .opCXNN x _ | .opFX07 x | .opFX0A x => k == x
  | .op8XY1 x _ | .op8XY2 x _ | .op8XY3 x _ => k == x || (q.logic && k == regF)
  | .op8XY4 x _ | .op8XY5 x _ | .op8XY6 x _ | .op8XY7 x _ | .op8XYE x _ => k == x || k == regF
  | .opDXYN _ _ _ | .opDXY0 _ _ => k == regF
  | .opFX65 x | .opFX85 x => decide (k.toNat ≤ x.toNat)
  | .op00CN _ | .op00E0 | .op00EE | .op00FB | .op00FC | .op00FD | .op00FE | .op00FF => false
  | .op1NNN _ | .op2NNN _ | .op3XNN _ _ | .op4XNN _ _ | .op5XY0 _ _ | .op9XY0 _ _ => false
  | .opANNN _ | .opBNNN _ | .opEX9E _ | .opEXA1 _ | .opFX15 _ | .opFX18 _ | .opFX1E _ => false
  | .opFX29 _ | .opFX30 _ | .opFX33 _ | .opFX55 _ | .opFX75 _ => false

/-! ## Outcomes -/

/-- The outcome is one of the four faults (R250). -/
def isFault : StepOutcome → Bool
  | .invalidOpcode _ | .stackOverflow | .stackUnderflow | .indexOutOfRange => true
  | .ok | .exit => false

/-- The instruction the next Step executes, or none where it faults at fetch or decode (R120). -/
def nextInstr (s : State) : Option Instr :=
  match fetch s with
  | none => none
  | some op =>
    match decodeWord s.hires op with
    | .ok i => some i
    | .error _ => none

/-- The conditions under which an instruction raises `IndexOutOfRange` (the table of R254). -/
def indexFault (s : State) : Instr → Bool
  | .opDXYN _ _ n => decide (4095 < s.i.toNat + n.toNat - 1)
  | .opDXY0 _ _ => s.hires && decide (4095 < s.i.toNat + 31)
  | .opFX33 _ => decide (4095 < s.i.toNat + 2)
  | .opFX55 x | .opFX65 x => decide (4095 < s.i.toNat + x.toNat)
  | .opFX1E x => decide (0xFFFF < s.i.toNat + (getV s x).toNat)
  | .opEX9E x | .opEXA1 x => decide (15 < (getV s x).toNat)
  | .op00CN _ | .op00E0 | .op00EE | .op00FB | .op00FC | .op00FD | .op00FE | .op00FF => false
  | .op1NNN _ | .op2NNN _ | .op3XNN _ _ | .op4XNN _ _ | .op5XY0 _ _ | .op9XY0 _ _ => false
  | .op6XNN _ _ | .op7XNN _ _ | .op8XY0 _ _ | .op8XY1 _ _ | .op8XY2 _ _ | .op8XY3 _ _ => false
  | .op8XY4 _ _ | .op8XY5 _ _ | .op8XY6 _ _ | .op8XY7 _ _ | .op8XYE _ _ | .opCXNN _ _ => false
  | .opANNN _ | .opBNNN _ | .opFX07 _ | .opFX0A _ | .opFX15 _ | .opFX18 _ => false
  | .opFX29 _ | .opFX30 _ | .opFX75 _ | .opFX85 _ => false

/-! ## Invariants -/

/-- The invariant of R40, with the canonical form of memory: what every operation preserves. -/
structure Inv (s : State) : Prop where
  /-- Memory is in canonical form, within the 4096 bytes (R60). -/
  memory : Memory.wf s.mem = true
  /-- (a) `SP <= 16`. -/
  depth : s.sp ≤ 16
  /-- (b) The bitmap has the size of the mode. -/
  bitmap : s.pix.length = screenLen s.hires
  /-- (c) `PC <= 0x10FE`. -/
  pcBound : s.pc.toNat ≤ 0x10FE
  /-- (d) Every stack entry is at most 4096. -/
  stackBound : ∀ a ∈ s.stack, a.toNat ≤ 4096

/-- While `WAIT` is true the next instruction is an FX0A (R233). -/
def WaitsAtKeyWait (s : State) : Prop := s.wait = true → ∃ x, nextInstr s = some (.opFX0A x)

/-! ## The words of the encoding rules (R95, R101) -/

/-- `X << 8`. -/
def atX (x : Reg) : Word := x.setWidth 16 <<< 8

/-- `Y << 4`. -/
def atY (y : Reg) : Word := y.setWidth 16 <<< 4

/-- `N` in its place. -/
def atN (n : Nibble) : Word := n.setWidth 16

/-- `NN` in its place. -/
def atNN (nn : Byte) : Word := nn.setWidth 16

/-- `NNN` in its place. -/
def atNNN (nnn : Addr12) : Word := nnn.setWidth 16

/-- The word is the instruction's encoding, and decodes to it in both display modes. -/
def IsWordOf (op : Word) (i : Instr) : Prop := encode i = op ∧ ∀ hires, decodeWord hires op = .ok i

/-- The list of illegal words of R96, DXY0 in low-res among them (R97). -/
def illegalWord (hires : Bool) (op : Nat) : Bool :=
  match op / 0x1000 with
  | 0x0 => !(decide (0x00C0 ≤ op ∧ op ≤ 0x00CF) || [0x00E0, 0x00EE, 0x00FB, 0x00FC, 0x00FD, 0x00FE, 0x00FF].contains op)
  | 0x5 => op % 0x10 != 0
  | 0x8 => [0x8, 0x9, 0xA, 0xB, 0xC, 0xD, 0xF].contains (op % 0x10)
  | 0x9 => op % 0x10 != 0
  | 0xD => op % 0x10 == 0 && !hires
  | 0xE => !([0x9E, 0xA1].contains (op % 0x100))
  | 0xF => !([0x07, 0x0A, 0x15, 0x18, 0x1E, 0x29, 0x30, 0x33, 0x55, 0x65, 0x75, 0x85].contains (op % 0x100))
  | _ => false

/-! ## The logical instructions (R163 to R165) -/

/-- `VX` becomes `VX` and `VY` combined bit by bit; where `Q.logic` is true VF is cleared, last. -/
def LogicalResult (f : Bool → Bool → Bool) (x y : Reg) (s t : State) : Prop :=
  (s.quirks.logic = false ∨ x ≠ regF →
    ∀ k, k < 8 → (getV t x).getLsbD k = f ((getV s x).getLsbD k) ((getV s y).getLsbD k)) ∧
  (s.quirks.logic = true → getV t regF = 0 ∧ KeepsRegsBut [x, regF] s t) ∧
  (s.quirks.logic = false → KeepsRegsBut [x] s t)

/-! ## Sprites (R208, R209, R211) -/

/-- The pixel `(dx, dy)` of a sprite that starts at column `VX mod cols`, row `VY mod rows` lands on `(row, col)`:
past an edge it wraps around where `Q.wrap` is true and is clipped where it is false. -/
def LandsOn (s : State) (x y : Reg) (dx dy row col : Nat) : Prop :=
  let x0 := (getV s x).toNat % cols s.hires
  let y0 := (getV s y).toNat % rows s.hires
  if s.quirks.wrap then (x0 + dx) % cols s.hires = col ∧ (y0 + dy) % rows s.hires = row
  else x0 + dx = col ∧ y0 + dy = row

/-- DXYN's sprite has a set bit that lands on `(row, col)`: bit `7 - c` of the byte at `I + r` (R208). -/
def Covers8 (s : State) (x y : Reg) (n : Nibble) (row col : Nat) : Prop :=
  ∃ r c, r < n.toNat ∧ c < 8 ∧ (readByte s (s.i.toNat + r)).getLsbD (7 - c) = true ∧ LandsOn s x y c r row col

/-- DXY0's sprite has a set bit that lands on `(row, col)`: bit `15 - c` of the byte at `I + 2r` followed by the
byte at `I + 2r + 1` (R209). -/
def Covers16 (s : State) (x y : Reg) (row col : Nat) : Prop :=
  ∃ r c, r < 16 ∧ c < 16 ∧
    (readByte s (s.i.toNat + 2 * r) ++ readByte s (s.i.toNat + 2 * r + 1)).getLsbD (15 - c) = true ∧
    LandsOn s x y c r row col

/-- After a draw that covers the pixels `covers`: each pixel of the screen is exclusive-or'ed, and VF is 1 exactly
where a pixel that was on was turned off (R208). -/
def DrawnBy (covers : Nat → Nat → Prop) (s t : State) : Prop :=
  t.pix.length = s.pix.length ∧
  (∀ row col, row < rows s.hires → col < cols s.hires →
    (pixel t row col = true ↔ Xor (pixel s row col = true) (covers row col))) ∧
  ((getV t regF = 1 ∧ ∃ row col, row < rows s.hires ∧ col < cols s.hires ∧ covers row col ∧ pixel s row col = true) ∨
   (getV t regF = 0 ∧ ∀ row col, row < rows s.hires → col < cols s.hires → covers row col → pixel s row col = false))

end Sys2Proof.Safety
end

