-- ==== Sys2Proof/Certificates/Slice0/Obligations.lean ====
section
/-! DEFINITION. The statements for the provers. A result statement concludes that `exec` answers a next state, with what that state holds, its frame, and the instruction's word. `s` is the state whose `pc` Step has advanced (R122). -/

open Sys2Proof Sys2Proof.Machine Sys2Proof.Safety

/-! ## Decoding and encoding (`spec/30_encoding.md`) -/

/-- R94, R101: the bytes of a well-formed instruction decode to it and leave the rest, in high-res; in low-res too,
but for DXY0 (R97). -/
def Obligations.DecodeOfEncodeGivesBack : Prop :=
  ∀ (i : Instr) (rest : List Byte), wellFormed i = true →
    decode true (bytesOfWord (encode i) ++ rest) = .ok (i, rest) ∧
    ((∀ x y, i ≠ .opDXY0 x y) → decode false (bytesOfWord (encode i) ++ rest) = .ok (i, rest))

/-- R94: each word that decodes is the word of the one well-formed instruction it decodes to. -/
def Obligations.EncodeOfDecodeGivesBack : Prop :=
  ∀ (hires : Bool) (op : Word) (i : Instr), decodeWord hires op = .ok i → wellFormed i = true ∧ encode i = op

/-- R96: the illegal words are exactly those of the list; every other word is an instruction. -/
def Obligations.IllegalWordsAreExactlyTheList : Prop :=
  ∀ (hires : Bool) (op : Word),
    (illegalWord hires op.toNat = true → decodeWord hires op = .error (.invalidOpcode op)) ∧
    (illegalWord hires op.toNat = false → ∃ i, decodeWord hires op = .ok i)

/-- R101, R102: the worked encodings of the spec. -/
def Obligations.WorkedEncodingsDecode : Prop :=
  decode false [0x6A, 0x2F] = .ok (.op6XNN 0xA 0x2F, []) ∧
  decode false [0x81, 0x24] = .ok (.op8XY4 1 2, []) ∧
  decode false [0xD0, 0x15] = .ok (.opDXYN 0 1 5, []) ∧
  decode false [0xF3, 0x65] = .ok (.opFX65 3, []) ∧
  decode false [0x22, 0xF0] = .ok (.op2NNN 0x2F0, []) ∧
  decode false [0x00, 0xC3] = .ok (.op00CN 3, []) ∧
  decode false [0x50, 0x01] = .error (.invalidOpcode 0x5001)

/-- R97: the mode changes the decoding of the words `DXY0` and of no other (what `DXY0` does in low-res is the spec's
decision D9). -/
def Obligations.ModeDecidesOnlyDxy0 : Prop :=
  ∀ op : Word,
    (op &&& 0xF00F#16 ≠ 0xD000#16 → decodeWord true op = decodeWord false op) ∧
    (op &&& 0xF00F#16 = 0xD000#16 →
      decodeWord true op = .ok (.opDXY0 (op.extractLsb' 8 4) (op.extractLsb' 4 4)) ∧
      decodeWord false op = .error (.invalidOpcode op))

/-! ## The Step (`spec/40_step_cycle.md`, `spec/60_exceptions.md`) -/

/-- R120 to R124: where the two bytes at `pc` decode, Step is `exec` of that instruction with `pc` advanced by 2. -/
def Obligations.StepRunsTheDecodedInstruction : Prop :=
  ∀ (s : State) (i : Instr) (rest : List Byte), s.pc.toNat ≤ 4094 →
    decode s.hires [readByte s s.pc.toNat, readByte s (s.pc.toNat + 1)] = .ok (i, rest) →
    step s = exec i { s with pc := s.pc + 2 }

/-- R122, R251: an illegal word is reported whole, with `pc` advanced by 2; that nothing else changes is the spec's
decision D7 (log entry 12). -/
def Obligations.IllegalWordIsReported : Prop :=
  ∀ s : State, s.pc.toNat ≤ 4094 →
    illegalWord s.hires (readByte s s.pc.toNat ++ readByte s (s.pc.toNat + 1)).toNat = true →
    step s = .next { s with
      pc := s.pc + 2
      outcome := .invalidOpcode (readByte s s.pc.toNat ++ readByte s (s.pc.toNat + 1)) }

/-- R121: a fetch beyond memory reports `IndexOutOfRange`; that it changes nothing, `pc` included, is the spec's
decision D6 (log entry 19). -/
def Obligations.FetchBeyondMemoryChangesNothing : Prop :=
  ∀ s : State, 4094 < s.pc.toNat → step s = .next { s with outcome := .indexOutOfRange }

/-- R267: every Step is enabled in every state and returns an outcome, and so does every instruction. -/
def Obligations.StepAlwaysAnswers : Prop :=
  (∀ s : State, ∃ t, step s = .next t) ∧ (∀ (i : Instr) (s : State), ∃ t, exec i s = .next t)

/-- R126, R260: a faulting Step changes `pc` alone, by 2, and not even that where the fetch faults (the spec's decisions
D6 and D7, log entries 12 and 19). -/
def Obligations.FaultsArePrecise : Prop :=
  ∀ s t : State, step s = .next t → isFault t.outcome = true →
    OnlyChanges [.pc] s t ∧ t.pc = (if 4094 < s.pc.toNat then s.pc else s.pc + 2)

/-- R255, R141: a Step reports `Exit` exactly where it executes 00FD. -/
def Obligations.ExitComesOnlyFrom00FD : Prop :=
  ∀ s t : State, step s = .next t → (t.outcome = .exit ↔ nextInstr s = some .op00FD)

/-- R250 to R254, R257: which Step reports which fault (its conditions for FX1E, EX9E, EXA1 and the fetch are the
spec's decisions D13, D11, D6). -/
def Obligations.FaultsHaveTheirCauses : Prop :=
  ∀ s t : State, step s = .next t →
    (∀ op, t.outcome = .invalidOpcode op ↔ fetch s = some op ∧ illegalWord s.hires op.toNat = true) ∧
    (t.outcome = .stackOverflow ↔ ∃ nnn, nextInstr s = some (.op2NNN nnn) ∧ 16 ≤ s.sp) ∧
    (t.outcome = .stackUnderflow ↔ nextInstr s = some .op00EE ∧ s.sp = 0) ∧
    (t.outcome = .indexOutOfRange ↔
      4094 < s.pc.toNat ∨ ∃ i, nextInstr s = some i ∧ indexFault s i = true)

/-! ## Invariants and frames of the whole machine -/

/-- R40: from every state that meets the invariant, a Step gives a state that meets it. -/
def Obligations.StepKeepsTheInvariant : Prop :=
  ∀ s t : State, Inv s → step s = .next t → Inv t

/-- R40, R233: the state after Reset meets both invariants. -/
def Obligations.ResetMeetsTheInvariants : Prop :=
  Inv State.reset ∧ WaitsAtKeyWait State.reset

/-- R233: while `WAIT` is true the only instruction the block executes is an FX0A. -/
def Obligations.StepKeepsWaitingAtKeyWait : Prop :=
  ∀ s t : State, WaitsAtKeyWait s → step s = .next t → WaitsAtKeyWait t

/-- R40: every schedule of Steps, Ticks and KeyEvents, and Reset with HostLoad, keeps the invariant. -/
def Obligations.EveryScheduleKeepsTheInvariant : Prop :=
  (∀ (ops : List RunOp) (s t : State), Inv s → WaitsAtKeyWait s → runOps ops s = .next t →
    Inv t ∧ WaitsAtKeyWait t) ∧
  (∀ (b : Boot) (s : State), Inv s → Inv (boot b s) ∧ WaitsAtKeyWait (boot b s))

/-- R76, R39: an instruction writes the spaces of its row of the table and leaves every other piece of state. -/
def Obligations.InstructionsWriteOnlyTheirSpaces : Prop :=
  ∀ (i : Instr) (s t : State), exec i s = .next t → OnlyChanges (writesOf i) s t

/-- R21, R20: an instruction leaves every register that is neither its destination nor a VF it writes as a flag. -/
def Obligations.InstructionsWriteOnlyTheirRegisters : Prop :=
  ∀ (i : Instr) (s t : State) (k : Reg), exec i s = .next t → mayWriteReg s.quirks k i = false →
    getV t k = getV s k

/-- R27, R32, R36, R39: no Step writes a key latch or a strap, and the random input is sampled once by a Step that
executes CXNN and by no other. -/
def Obligations.StepLeavesTheInputs : Prop :=
  ∀ s t : State, step s = .next t →
    t.keys = s.keys ∧ t.quirks = s.quirks ∧
    ((∃ x nn, nextInstr s = some (.opCXNN x nn)) → t.draws = s.draws + 1) ∧
    ((∀ x nn, nextInstr s ≠ some (.opCXNN x nn)) → t.draws = s.draws)

/-! ## Reset and the host (`spec/70_reset_and_hazards.md`) -/

/-- R38, R280: the table of reset values. Only `PC` is the source's own; the others are the spec's decisions D3 and D4
and, for `MEM` and `RPL` with nothing loaded, the model's choice (log entries 5, 6 and 7). -/
def Obligations.ResetValues : Prop :=
  State.reset.pc = 0x200#16 ∧ (∀ k, getV State.reset k = 0) ∧ State.reset.i = 0 ∧ State.reset.sp = 0 ∧
  State.reset.dt = 0 ∧ State.reset.st = 0 ∧ (∀ k, keyDown State.reset k = false) ∧ State.reset.wait = false ∧
  State.reset.hires = false ∧ State.reset.pix.length = 2048 ∧ (∀ k, State.reset.pix.getD k false = false) ∧
  (∀ a, readByte State.reset a = 0) ∧ (∀ k, getRpl State.reset k = 0)

/-- R281: whatever state Reset finds, the first Step after it fetches the bytes at 0x200 and 0x201. -/
def Obligations.EntryPointIs0x200 : Prop :=
  ∀ s : State, (hostReset s).pc = 0x200#16 ∧
    fetch (hostReset s) = some (readByte s 0x200 ++ readByte s 0x201) ∧
    (∀ a, readByte (hostReset s) a = readByte s a) ∧ (∀ k, getRpl (hostReset s) k = getRpl s k)

/-- R282: at the first Step of a run each byte of memory is the last one the host loaded there, or what it was; the flag
registers and the straps are the host's, and everything else is as after Reset. -/
def Obligations.BootLoadsWhatTheHostBrings : Prop :=
  ∀ (b : Boot) (s : State), Memory.wf s.mem = true →
    (∀ a, readByte (boot b s) a =
      match b.bytes.reverse.find? (fun p => p.1.toNat == a) with
      | some p => p.2
      | none => readByte s a) ∧
    (boot b s).rpl = b.rpl ∧ (boot b s).quirks = b.straps ∧
    OnlyChanges [.mem, .rpl, .quirks, .draws] State.reset (boot b s)

/-- R236: `Tick` counts both timers down, saturating at zero, and touches nothing else. -/
def Obligations.TickCountsBothTimersDown : Prop :=
  ∀ s : State, (tick s).dt.toNat = s.dt.toNat - 1 ∧ (tick s).st.toNat = s.st.toNat - 1 ∧
    OnlyChanges [.dt, .st] s (tick s)

/-- R237: `KeyEvent` writes one latch and nothing else. -/
def Obligations.KeyEventWritesOneLatch : Prop :=
  ∀ (k : BitVec 4) (pressed : Bool) (s : State),
    (∀ j, keyDown (keyEvent k pressed s) j = if j = k.toNat then pressed else keyDown s j) ∧
    OnlyChanges [.keys] s (keyEvent k pressed s)

/-- R238: the sound level is `ST != 0`; within a run a Step changes it only by FX18, and a Tick only to off. -/
def Obligations.SoundLevelFollowsTheSoundTimer : Prop :=
  (∀ s : State, soundLevel s = true ↔ s.st ≠ 0) ∧
  (∀ s t : State, step s = .next t → soundLevel t ≠ soundLevel s → ∃ x, nextInstr s = some (.opFX18 x)) ∧
  (∀ s : State, soundLevel (tick s) = true → soundLevel s = true)

/-- R283, R259: a run ends at the first Step whose outcome is `Exit`, and goes on after every other outcome. -/
def Obligations.RunEndsAtExitOnly : Prop :=
  ∀ (ops : List RunOp) (s t : State), step s = .next t →
    (t.outcome = .exit → runOps (.step :: ops) s = .next t) ∧
    (t.outcome ≠ .exit → runOps (.step :: ops) s = runOps ops t)

/-! ## Control flow (`spec/41_control_flow.md`) -/

/-- R140: 00EE pops the entry pushed last into `pc`; on an empty stack it reports `StackUnderflow` and leaves the rest. -/
def Obligations.ReturnPopsIntoPc : Prop :=
  IsWordOf 0x00EE#16 .op00EE ∧
  (∀ (s : State) (below : List Word) (a : Word), s.stack = below ++ [a] →
    ∃ t, exec .op00EE s = .next t ∧ t.outcome = .ok ∧ t.pc = a ∧ t.stack = below ∧ OnlyChanges [.pc, .stack] s t) ∧
  (∀ s : State, s.stack = [] → exec .op00EE s = .next { s with outcome := .stackUnderflow })

/-- R143: 2NNN pushes the advanced `pc` and jumps; with 16 entries held (the spec's decision D2) it reports
`StackOverflow`, pushes nothing and does not jump. -/
def Obligations.CallPushesPcAndJumps : Prop :=
  ∀ (nnn : Addr12) (s : State),
    IsWordOf (0x2000#16 ||| atNNN nnn) (.op2NNN nnn) ∧
    (s.sp < 16 → ∃ t, exec (.op2NNN nnn) s = .next t ∧ t.outcome = .ok ∧ t.stack = s.stack ++ [s.pc] ∧
      t.pc.toNat = nnn.toNat ∧ OnlyChanges [.pc, .stack] s t) ∧
    (16 ≤ s.sp → exec (.op2NNN nnn) s = .next { s with outcome := .stackOverflow })

/-- R143: a call followed by a return restores `pc` to the instruction after the call, for any `NNN` and any occupancy
up to 15, and restores the stack. -/
def Obligations.CallThenReturnRestoresPc : Prop :=
  ∀ (nnn : Addr12) (s t : State) (w : Word), s.sp ≤ 15 → exec (.op2NNN nnn) s = .next t →
    ∃ u, exec .op00EE { t with pc := w } = .next u ∧ u.outcome = .ok ∧ u.pc = s.pc ∧ u.stack = s.stack

/-- R142: 1NNN writes `NNN` to `pc` and nothing else. -/
def Obligations.JumpGoesToAddress : Prop :=
  ∀ (nnn : Addr12) (s : State),
    IsWordOf (0x1000#16 ||| atNNN nnn) (.op1NNN nnn) ∧
    ∃ t, exec (.op1NNN nnn) s = .next t ∧ t.outcome = .ok ∧ t.pc.toNat = nnn.toNat ∧ OnlyChanges [.pc] s t

/-- R144, R145: 3XNN and 4XNN skip by a further 2 where `VX` equals, or differs from, `NN`. -/
def Obligations.SkipsOnImmediate : Prop :=
  ∀ (x : Reg) (nn : Byte) (s : State),
    IsWordOf (0x3000#16 ||| atX x ||| atNN nn) (.op3XNN x nn) ∧
    IsWordOf (0x4000#16 ||| atX x ||| atNN nn) (.op4XNN x nn) ∧
    (∃ t, exec (.op3XNN x nn) s = .next t ∧ t.outcome = .ok ∧ OnlyChanges [.pc] s t ∧
      (getV s x = nn → t.pc = s.pc + 2) ∧ (getV s x ≠ nn → t.pc = s.pc)) ∧
    (∃ t, exec (.op4XNN x nn) s = .next t ∧ t.outcome = .ok ∧ OnlyChanges [.pc] s t ∧
      (getV s x ≠ nn → t.pc = s.pc + 2) ∧ (getV s x = nn → t.pc = s.pc))

/-- R146, R147: 5XY0 and 9XY0 skip by a further 2 where `VX` equals, or differs from, `VY`; a word of either class whose
low nibble is not zero is illegal. -/
def Obligations.SkipsOnRegisters : Prop :=
  ∀ (x y : Reg) (s : State),
    IsWordOf (0x5000#16 ||| atX x ||| atY y) (.op5XY0 x y) ∧
    IsWordOf (0x9000#16 ||| atX x ||| atY y) (.op9XY0 x y) ∧
    (∀ n : Nibble, n ≠ 0 →
      decodeWord s.hires (0x5000#16 ||| atX x ||| atY y ||| atN n) =
        .error (.invalidOpcode (0x5000#16 ||| atX x ||| atY y ||| atN n)) ∧
      decodeWord s.hires (0x9000#16 ||| atX x ||| atY y ||| atN n) =
        .error (.invalidOpcode (0x9000#16 ||| atX x ||| atY y ||| atN n))) ∧
    (∃ t, exec (.op5XY0 x y) s = .next t ∧ t.outcome = .ok ∧ OnlyChanges [.pc] s t ∧
      (getV s x = getV s y → t.pc = s.pc + 2) ∧ (getV s x ≠ getV s y → t.pc = s.pc)) ∧
    (∃ t, exec (.op9XY0 x y) s = .next t ∧ t.outcome = .ok ∧ OnlyChanges [.pc] s t ∧
      (getV s x ≠ getV s y → t.pc = s.pc + 2) ∧ (getV s x = getV s y → t.pc = s.pc))

/-- R148: BNNN jumps to `NNN` plus `V[0]`, or plus `V[X]` with `X` the high nibble of `NNN` where `Q.jump` is true; that
the sum is not reduced is the spec's decision D20 (log entry 21). -/
def Obligations.JumpWithOffset : Prop :=
  ∀ (nnn : Addr12) (s : State),
    IsWordOf (0xB000#16 ||| atNNN nnn) (.opBNNN nnn) ∧
    ∃ t, exec (.opBNNN nnn) s = .next t ∧ t.outcome = .ok ∧ OnlyChanges [.pc] s t ∧
      (s.quirks.jump = false → t.pc.toNat = nnn.toNat + (getV s 0).toNat) ∧
      (s.quirks.jump = true → t.pc.toNat = nnn.toNat + (getV s (BitVec.ofNat 4 (nnn.toNat / 256))).toNat)

/-- R141: 00FD reports `Exit` and changes nothing; there is no halted latch (the spec's decision D16, log entry 27). -/
def Obligations.ExitIsSignalled : Prop :=
  IsWordOf 0x00FD#16 .op00FD ∧
  ∀ s : State, ∃ t, exec .op00FD s = .next t ∧ t.outcome = .exit ∧ OnlyChanges [] s t

/-! ## Register loads and the ALU (`spec/42_alu.md`) -/

/-- R160, R162: 6XNN loads `NN` and 8XY0 copies `VY` into `VX`, and nothing else is written. -/
def Obligations.LoadsWriteTheRegister : Prop :=
  ∀ (x y : Reg) (nn : Byte) (s : State),
    IsWordOf (0x6000#16 ||| atX x ||| atNN nn) (.op6XNN x nn) ∧
    IsWordOf (0x8000#16 ||| atX x ||| atY y) (.op8XY0 x y) ∧
    (∃ t, exec (.op6XNN x nn) s = .next t ∧ t.outcome = .ok ∧ OnlyChanges [.v] s t ∧
      getV t x = nn ∧ KeepsRegsBut [x] s t) ∧
    (∃ t, exec (.op8XY0 x y) s = .next t ∧ t.outcome = .ok ∧ OnlyChanges [.v] s t ∧
      getV t x = getV s y ∧ KeepsRegsBut [x] s t)

/-- R161: 7XNN adds `NN` modulo 256 and writes no flag. -/
def Obligations.AddImmediateWraps : Prop :=
  ∀ (x : Reg) (nn : Byte) (s : State),
    IsWordOf (0x7000#16 ||| atX x ||| atNN nn) (.op7XNN x nn) ∧
    ∃ t, exec (.op7XNN x nn) s = .next t ∧ t.outcome = .ok ∧ OnlyChanges [.v] s t ∧
      (getV t x).toNat = ((getV s x).toNat + nn.toNat) % 256 ∧ KeepsRegsBut [x] s t

/-- R163, R164, R165: the bitwise operations, bit by bit, and VF cleared last where `Q.logic` is true (that all three clear
it is the choice of conflict C4, and that the clearing comes last decision D8; log entries 13 and 24). -/
def Obligations.LogicalOperations : Prop :=
  ∀ (x y : Reg) (s : State),
    IsWordOf (0x8001#16 ||| atX x ||| atY y) (.op8XY1 x y) ∧
    IsWordOf (0x8002#16 ||| atX x ||| atY y) (.op8XY2 x y) ∧
    IsWordOf (0x8003#16 ||| atX x ||| atY y) (.op8XY3 x y) ∧
    (∃ t, exec (.op8XY1 x y) s = .next t ∧ t.outcome = .ok ∧ OnlyChanges [.v] s t ∧
      LogicalResult (fun a b => a || b) x y s t) ∧
    (∃ t, exec (.op8XY2 x y) s = .next t ∧ t.outcome = .ok ∧ OnlyChanges [.v] s t ∧
      LogicalResult (fun a b => a && b) x y s t) ∧
    (∃ t, exec (.op8XY3 x y) s = .next t ∧ t.outcome = .ok ∧ OnlyChanges [.v] s t ∧
      LogicalResult (fun a b => a != b) x y s t)

/-- R166: 8XY4 writes the sum modulo 256 and then the carry to VF; for `X = 15` VF holds the carry (decision D8, log
entry 13). -/
def Obligations.AddSetsCarry : Prop :=
  ∀ (x y : Reg) (s : State),
    IsWordOf (0x8004#16 ||| atX x ||| atY y) (.op8XY4 x y) ∧
    ∃ t, exec (.op8XY4 x y) s = .next t ∧ t.outcome = .ok ∧ OnlyChanges [.v] s t ∧
      (x ≠ regF → (getV t x).toNat = ((getV s x).toNat + (getV s y).toNat) % 256) ∧
      (255 < (getV s x).toNat + (getV s y).toNat → getV t regF = 1) ∧
      ((getV s x).toNat + (getV s y).toNat ≤ 255 → getV t regF = 0) ∧
      KeepsRegsBut [x, regF] s t

/-- R167, R169: 8XY5 writes `VX - VY` and 8XY7 `VY - VX` modulo 256, and then NOT borrow to VF; for `X = 15` VF holds
the flag (decision D8, log entry 13). -/
def Obligations.SubtractionsSetNotBorrow : Prop :=
  ∀ (x y : Reg) (s : State),
    IsWordOf (0x8005#16 ||| atX x ||| atY y) (.op8XY5 x y) ∧
    IsWordOf (0x8007#16 ||| atX x ||| atY y) (.op8XY7 x y) ∧
    (∃ t, exec (.op8XY5 x y) s = .next t ∧ t.outcome = .ok ∧ OnlyChanges [.v] s t ∧
      (x ≠ regF → (getV t x).toNat = ((getV s x).toNat + 256 - (getV s y).toNat) % 256) ∧
      ((getV s y).toNat ≤ (getV s x).toNat → getV t regF = 1) ∧
      ((getV s x).toNat < (getV s y).toNat → getV t regF = 0) ∧ KeepsRegsBut [x, regF] s t) ∧
    (∃ t, exec (.op8XY7 x y) s = .next t ∧ t.outcome = .ok ∧ OnlyChanges [.v] s t ∧
      (x ≠ regF → (getV t x).toNat = ((getV s y).toNat + 256 - (getV s x).toNat) % 256) ∧
      ((getV s x).toNat ≤ (getV s y).toNat → getV t regF = 1) ∧
      ((getV s y).toNat < (getV s x).toNat → getV t regF = 0) ∧ KeepsRegsBut [x, regF] s t)

/-- R168, R170: 8XY6 and 8XYE shift `VX` (`Q.shift` true) or `VY` (false) by one, and write the bit shifted out to VF; for
`X = 15` VF holds the bit (decision D8, log entry 13). -/
def Obligations.ShiftsByOne : Prop :=
  ∀ (x y : Reg) (s : State) (a : Nat), a = (if s.quirks.shift = true then getV s x else getV s y).toNat →
    IsWordOf (0x8006#16 ||| atX x ||| atY y) (.op8XY6 x y) ∧
    IsWordOf (0x800E#16 ||| atX x ||| atY y) (.op8XYE x y) ∧
    (∃ t, exec (.op8XY6 x y) s = .next t ∧ t.outcome = .ok ∧ OnlyChanges [.v] s t ∧
      (x ≠ regF → (getV t x).toNat = a / 2) ∧ (getV t regF).toNat = a % 2 ∧ KeepsRegsBut [x, regF] s t) ∧
    (∃ t, exec (.op8XYE x y) s = .next t ∧ t.outcome = .ok ∧ OnlyChanges [.v] s t ∧
      (x ≠ regF → (getV t x).toNat = a * 2 % 256) ∧ (getV t regF).toNat = a / 128 ∧ KeepsRegsBut [x, regF] s t)

/-- R171: CXNN writes the byte the random input presents, masked with `NN`, whatever that byte is (a free value, log
entry 4), and takes one sample. -/
def Obligations.RandomByteIsMasked : Prop :=
  ∀ (x : Reg) (nn : Byte) (s : State),
    IsWordOf (0xC000#16 ||| atX x ||| atNN nn) (.opCXNN x nn) ∧
    ∃ t, exec (.opCXNN x nn) s = .next t ∧ t.outcome = .ok ∧ OnlyChanges [.v, .draws] s t ∧
      getV t x = Config.randomByte s.draws &&& nn ∧ getV t x &&& ~~~nn = 0 ∧ (nn = 0 → getV t x = 0) ∧
      t.draws = s.draws + 1 ∧ KeepsRegsBut [x] s t

/-! ## Index register, memory, flag registers (`spec/43_index_memory.md`) -/

/-- R180, R182, R183: ANNN, FX29 and FX30 write `I`; the stride 5 of FX30 is the choice of conflict C8 (log entry 14). -/
def Obligations.IndexIsLoaded : Prop :=
  ∀ (nnn : Addr12) (x : Reg) (s : State),
    IsWordOf (0xA000#16 ||| atNNN nnn) (.opANNN nnn) ∧ IsWordOf (0xF029#16 ||| atX x) (.opFX29 x) ∧
    IsWordOf (0xF030#16 ||| atX x) (.opFX30 x) ∧
    (∃ t, exec (.opANNN nnn) s = .next t ∧ t.outcome = .ok ∧ OnlyChanges [.i] s t ∧ t.i.toNat = nnn.toNat) ∧
    (∃ t, exec (.opFX29 x) s = .next t ∧ t.outcome = .ok ∧ OnlyChanges [.i] s t ∧
      t.i.toNat = (getV s x).toNat * 5) ∧
    (∃ t, exec (.opFX30 x) s = .next t ∧ t.outcome = .ok ∧ OnlyChanges [.i] s t ∧
      t.i.toNat = (getV s x).toNat * 5 + 0x50)

/-- R181: FX1E adds `VX` to `I`, beyond 4095 too, and writes no flag; a sum beyond 16 bits reports `IndexOutOfRange` and
leaves `I` (the spec's decision D13, log entry 18). -/
def Obligations.AddToIndex : Prop :=
  ∀ (x : Reg) (s : State),
    IsWordOf (0xF01E#16 ||| atX x) (.opFX1E x) ∧
    (s.i.toNat + (getV s x).toNat ≤ 0xFFFF → ∃ t, exec (.opFX1E x) s = .next t ∧ t.outcome = .ok ∧
      OnlyChanges [.i] s t ∧ t.i.toNat = s.i.toNat + (getV s x).toNat) ∧
    (0xFFFF < s.i.toNat + (getV s x).toNat → exec (.opFX1E x) s = .next { s with outcome := .indexOutOfRange })

/-- R184: FX33 stores the hundreds, tens and ones of `VX` at `I`, `I+1` and `I+2`, and nothing else is written. -/
def Obligations.DecimalDigitsAreStored : Prop :=
  ∀ (x : Reg) (s : State), Memory.wf s.mem = true → s.i.toNat + 2 ≤ 4095 →
    IsWordOf (0xF033#16 ||| atX x) (.opFX33 x) ∧
    ∃ t, exec (.opFX33 x) s = .next t ∧ t.outcome = .ok ∧ OnlyChanges [.mem] s t ∧
      (readByte t s.i.toNat).toNat = (getV s x).toNat / 100 ∧
      (readByte t (s.i.toNat + 1)).toNat = (getV s x).toNat / 10 % 10 ∧
      (readByte t (s.i.toNat + 2)).toNat = (getV s x).toNat % 10 ∧ KeepsBytesOutside s.i.toNat 3 s t

/-- R185, R189: FX55 stores `V[0..X]` from `I` on and then adjusts `I` as the two memory quirks say (their table is the
spec's decision D14; both true: conflict C6, log entry 20). -/
def Obligations.RegistersAreStored : Prop :=
  ∀ (x : Reg) (s : State), Memory.wf s.mem = true → s.i.toNat + x.toNat ≤ 4095 →
    IsWordOf (0xF055#16 ||| atX x) (.opFX55 x) ∧
    ∃ t, exec (.opFX55 x) s = .next t ∧ t.outcome = .ok ∧ OnlyChanges [.mem, .i] s t ∧
      (∀ k : Reg, k.toNat ≤ x.toNat → readByte t (s.i.toNat + k.toNat) = getV s k) ∧
      KeepsBytesOutside s.i.toNat (x.toNat + 1) s t ∧
      (s.quirks.memoryLeaveIUnchanged = true → t.i = s.i) ∧
      (s.quirks.memoryLeaveIUnchanged = false → s.quirks.memoryIncrementByX = true →
        t.i.toNat = s.i.toNat + x.toNat) ∧
      (s.quirks.memoryLeaveIUnchanged = false → s.quirks.memoryIncrementByX = false →
        t.i.toNat = s.i.toNat + x.toNat + 1)

/-- R186, R189: FX65 loads `V[0..X]` from `I` on, keeps the registers above `X`, and then adjusts `I` as the two memory
quirks say (decision D14, conflict C6, log entry 20). -/
def Obligations.RegistersAreLoaded : Prop :=
  ∀ (x : Reg) (s : State), s.i.toNat + x.toNat ≤ 4095 →
    IsWordOf (0xF065#16 ||| atX x) (.opFX65 x) ∧
    ∃ t, exec (.opFX65 x) s = .next t ∧ t.outcome = .ok ∧ OnlyChanges [.v, .i] s t ∧
      (∀ k : Reg, getV t k = if k.toNat ≤ x.toNat then readByte s (s.i.toNat + k.toNat) else getV s k) ∧
      (s.quirks.memoryLeaveIUnchanged = true → t.i = s.i) ∧
      (s.quirks.memoryLeaveIUnchanged = false → s.quirks.memoryIncrementByX = true →
        t.i.toNat = s.i.toNat + x.toNat) ∧
      (s.quirks.memoryLeaveIUnchanged = false → s.quirks.memoryIncrementByX = false →
        t.i.toNat = s.i.toNat + x.toNat + 1)

/-- R187, R188: FX75 saves `V[0..X]` to the flag registers and FX85 restores `V[0..X]` from them; those above `X` are
kept. -/
def Obligations.FlagRegistersSaveAndRestore : Prop :=
  ∀ (x : Reg) (s : State),
    IsWordOf (0xF075#16 ||| atX x) (.opFX75 x) ∧ IsWordOf (0xF085#16 ||| atX x) (.opFX85 x) ∧
    (∃ t, exec (.opFX75 x) s = .next t ∧ t.outcome = .ok ∧ OnlyChanges [.rpl] s t ∧
      ∀ k : Reg, getRpl t k = if k.toNat ≤ x.toNat then getV s k else getRpl s k) ∧
    (∃ t, exec (.opFX85 x) s = .next t ∧ t.outcome = .ok ∧ OnlyChanges [.v] s t ∧
      ∀ k : Reg, getV t k = if k.toNat ≤ x.toNat then getRpl s k else getV s k)

/-- R185 to R188: what FX55 stored FX65 loads back, and what FX75 saved FX85 restores, whatever the registers, `pc` and
(for FX85) `I` became in between. -/
def Obligations.StoredRegistersComeBack : Prop :=
  (∀ (x : Reg) (s t : State) (v : Vector Byte 16) (pc : Word), Memory.wf s.mem = true →
    s.i.toNat + x.toNat ≤ 4095 →
    exec (.opFX55 x) s = .next t →
    ∃ u, exec (.opFX65 x) { t with v := v, pc := pc, i := s.i } = .next u ∧ u.outcome = .ok ∧
      ∀ k : Reg, k.toNat ≤ x.toNat → getV u k = getV s k) ∧
  (∀ (x : Reg) (s t : State) (v : Vector Byte 16) (pc i : Word), exec (.opFX75 x) s = .next t →
    ∃ u, exec (.opFX85 x) { t with v := v, pc := pc, i := i } = .next u ∧ u.outcome = .ok ∧
      ∀ k : Reg, k.toNat ≤ x.toNat → getV u k = getV s k)

/-- R72: bytes stored by FX55 or FX33 are the instruction word a fetch at their address gives, with no fence. -/
def Obligations.StoresAreSeenByTheNextFetch : Prop :=
  (∀ (x : Reg) (s t : State), Memory.wf s.mem = true → 1 ≤ x.toNat → s.i.toNat + x.toNat ≤ 4095 →
    exec (.opFX55 x) s = .next t → fetch { t with pc := s.i } = some (getV s 0 ++ getV s 1)) ∧
  (∀ (x : Reg) (s t : State), Memory.wf s.mem = true → s.i.toNat + 2 ≤ 4095 →
    exec (.opFX33 x) s = .next t →
    fetch { t with pc := s.i } =
      some (BitVec.ofNat 8 ((getV s x).toNat / 100) ++ BitVec.ofNat 8 ((getV s x).toNat / 10 % 10)))

/-- R254, R126: an instruction whose condition in the table holds reports `IndexOutOfRange` and changes nothing (the
spec's decisions D7, D11 and D13; log entries 12 and 18). -/
def Obligations.RangeFaultsChangeNothing : Prop :=
  ∀ (i : Instr) (s : State), indexFault s i = true → exec i s = .next { s with outcome := .indexOutOfRange }

/-! ## Display (`spec/44_display.md`) -/

/-- R202: 00E0 turns every pixel off and changes neither the mode nor anything else. -/
def Obligations.ClearTurnsEveryPixelOff : Prop :=
  IsWordOf 0x00E0#16 .op00E0 ∧
  ∀ s : State, ∃ t, exec .op00E0 s = .next t ∧ t.outcome = .ok ∧ OnlyChanges [.pix] s t ∧
    t.pix.length = screenLen s.hires ∧
    ∀ row col, row < rows s.hires → col < cols s.hires → pixel t row col = false

/-- R203, R204, R205: the three scrolls rotate the linear bitmap by `N` rows, by 4, and by `len() - 4` positions, all
pixels at once (the spec's decision D19, log entry 16). -/
def Obligations.ScrollsRotateTheBitmap : Prop :=
  ∀ (n : Nibble) (s : State), s.pix.length = screenLen s.hires →
    IsWordOf (0x00C0#16 ||| atN n) (.op00CN n) ∧ IsWordOf 0x00FB#16 .op00FB ∧ IsWordOf 0x00FC#16 .op00FC ∧
    (∃ t, exec (.op00CN n) s = .next t ∧ t.outcome = .ok ∧ OnlyChanges [.pix] s t ∧
      t.pix.length = s.pix.length ∧
      ∀ row col, row < rows s.hires → col < cols s.hires →
        pixel t ((row + n.toNat) % rows s.hires) col = pixel s row col) ∧
    (∃ t, exec .op00FB s = .next t ∧ t.outcome = .ok ∧ OnlyChanges [.pix] s t ∧ t.pix.length = s.pix.length ∧
      ∀ k, k < screenLen s.hires →
        t.pix.getD ((k + 4) % screenLen s.hires) false = s.pix.getD k false) ∧
    (∃ t, exec .op00FC s = .next t ∧ t.outcome = .ok ∧ OnlyChanges [.pix] s t ∧ t.pix.length = s.pix.length ∧
      ∀ k, k < screenLen s.hires →
        t.pix.getD ((k + screenLen s.hires - 4) % screenLen s.hires) false = s.pix.getD k false)

/-- R205: 00FB followed by 00FC, or 00FC followed by 00FB, restores the bitmap exactly. -/
def Obligations.ScrollRightAndLeftAreInverse : Prop :=
  ∀ (s t : State), s.pix.length = screenLen s.hires →
    (exec .op00FB s = .next t → ∃ u, exec .op00FC t = .next u ∧ u.pix = s.pix) ∧
    (exec .op00FC s = .next t → ∃ u, exec .op00FB t = .next u ∧ u.pix = s.pix)

/-- R206, R207: a switch that changes the mode leaves an all-off bitmap of the new size, and one that does not changes
nothing (the choices of conflicts C2 and C3, log entry 24). -/
def Obligations.ModeSwitchErasesTheScreen : Prop :=
  IsWordOf 0x00FE#16 .op00FE ∧ IsWordOf 0x00FF#16 .op00FF ∧
  ∀ s : State,
    (∃ t, exec .op00FE s = .next t ∧ t.outcome = .ok ∧ OnlyChanges [.hires, .pix] s t ∧ t.hires = false ∧
      (s.hires = false → t.pix = s.pix) ∧
      (s.hires = true → t.pix.length = 2048 ∧ ∀ k, t.pix.getD k false = false)) ∧
    (∃ t, exec .op00FF s = .next t ∧ t.outcome = .ok ∧ OnlyChanges [.hires, .pix] s t ∧ t.hires = true ∧
      (s.hires = true → t.pix = s.pix) ∧
      (s.hires = false → t.pix.length = 8192 ∧ ∀ k, t.pix.getD k false = false))

/-- R208, R211, R77: DXYN exclusive-ors the pixels its sprite covers, wrapped or clipped, and sets VF to the collision flag;
it always completes where its bytes are in range. That bit 7 is leftmost is general knowledge G1 (log entry 15). -/
def Obligations.SpriteOfEightColumnsIsDrawn : Prop :=
  ∀ (x y : Reg) (n : Nibble) (s : State), n ≠ 0 → s.pix.length = screenLen s.hires →
    s.i.toNat + n.toNat - 1 ≤ 4095 →
    IsWordOf (0xD000#16 ||| atX x ||| atY y ||| atN n) (.opDXYN x y n) ∧
    ∃ t, exec (.opDXYN x y n) s = .next t ∧ t.outcome = .ok ∧ OnlyChanges [.v, .pix] s t ∧
      KeepsRegsBut [regF] s t ∧ DrawnBy (Covers8 s x y n) s t

/-- R209, R211, R77: DXY0 in high-res, likewise, with 16 rows of two bytes (general knowledge G2, log entry 15). -/
def Obligations.SpriteOfSixteenColumnsIsDrawn : Prop :=
  ∀ (x y : Reg) (s : State), s.hires = true → s.pix.length = 8192 → s.i.toNat + 31 ≤ 4095 →
    encode (.opDXY0 x y) = 0xD000#16 ||| atX x ||| atY y ∧
    decodeWord true (0xD000#16 ||| atX x ||| atY y) = .ok (.opDXY0 x y) ∧
    ∃ t, exec (.opDXY0 x y) s = .next t ∧ t.outcome = .ok ∧ OnlyChanges [.v, .pix] s t ∧
      KeepsRegsBut [regF] s t ∧ DrawnBy (Covers16 s x y) s t

/-- R208 as conflict C5 corrects it: drawing the same sprite twice at the same place restores the bitmap; where the
covered pixels began off and there is one, the first draw gives VF 0 and the second VF 1. -/
def Obligations.DrawingTwiceRestoresTheBitmap : Prop :=
  ∀ (x y : Reg) (n : Nibble) (s t : State) (pc : Word), x ≠ regF → y ≠ regF → n ≠ 0 →
    s.pix.length = screenLen s.hires → s.i.toNat + n.toNat - 1 ≤ 4095 → exec (.opDXYN x y n) s = .next t →
    ∃ u, exec (.opDXYN x y n) { t with pc := pc } = .next u ∧ u.pix = s.pix ∧
      ((∀ row col, row < rows s.hires → col < cols s.hires → Covers8 s x y n row col → pixel s row col = false) →
        (∃ row col, row < rows s.hires ∧ col < cols s.hires ∧ Covers8 s x y n row col) →
        getV t regF = 0 ∧ getV u regF = 1)

/-! ## Keys and timers (`spec/45_keys_timers.md`) -/

/-- R230, R231: EX9E and EXA1 skip by a further 2 where key `VX` is, or is not, pressed; above 15 they report
`IndexOutOfRange` (the spec's decision D11, log entry 18). -/
def Obligations.SkipsOnKey : Prop :=
  ∀ (x : Reg) (s : State),
    IsWordOf (0xE09E#16 ||| atX x) (.opEX9E x) ∧ IsWordOf (0xE0A1#16 ||| atX x) (.opEXA1 x) ∧
    ((getV s x).toNat ≤ 15 →
      (∃ t, exec (.opEX9E x) s = .next t ∧ t.outcome = .ok ∧ OnlyChanges [.pc] s t ∧
        t.pc = if keyDown s (getV s x).toNat = true then s.pc + 2 else s.pc) ∧
      (∃ t, exec (.opEXA1 x) s = .next t ∧ t.outcome = .ok ∧ OnlyChanges [.pc] s t ∧
        t.pc = if keyDown s (getV s x).toNat = true then s.pc else s.pc + 2)) ∧
    (15 < (getV s x).toNat →
      exec (.opEX9E x) s = .next { s with outcome := .indexOutOfRange } ∧
      exec (.opEXA1 x) s = .next { s with outcome := .indexOutOfRange })

/-- R232, R234, R235: FX07 reads the delay timer, FX15 writes it, FX18 writes the sound timer, and nothing else is
written. -/
def Obligations.TimersAreReadAndWritten : Prop :=
  ∀ (x : Reg) (s : State),
    IsWordOf (0xF007#16 ||| atX x) (.opFX07 x) ∧ IsWordOf (0xF015#16 ||| atX x) (.opFX15 x) ∧
    IsWordOf (0xF018#16 ||| atX x) (.opFX18 x) ∧
    (∃ t, exec (.opFX07 x) s = .next t ∧ t.outcome = .ok ∧ OnlyChanges [.v] s t ∧ getV t x = s.dt ∧
      KeepsRegsBut [x] s t) ∧
    (∃ t, exec (.opFX15 x) s = .next t ∧ t.outcome = .ok ∧ OnlyChanges [.dt] s t ∧ t.dt = getV s x) ∧
    (∃ t, exec (.opFX18 x) s = .next t ∧ t.outcome = .ok ∧ OnlyChanges [.st] s t ∧ t.st = getV s x)

/-- R233: the four cases of FX0A. It repeats (`pc - 2`) until a key is down, captures the lowest key once, repeats while
any key is down (case (c): the spec's decision D12, log entry 17), and proceeds when none is. -/
def Obligations.KeyWaitHasFourCases : Prop :=
  ∀ (x : Reg) (s : State),
    IsWordOf (0xF00A#16 ||| atX x) (.opFX0A x) ∧
    ∃ t, exec (.opFX0A x) s = .next t ∧ t.outcome = .ok ∧
      ((∀ k, k < 16 → keyDown s k = false) → s.wait = false → OnlyChanges [.pc] s t ∧ t.pc = s.pc - 2) ∧
      (∀ low, low < 16 → keyDown s low = true → (∀ k, k < low → keyDown s k = false) → s.wait = false →
        OnlyChanges [.v, .wait, .pc] s t ∧ (getV t x).toNat = low ∧ KeepsRegsBut [x] s t ∧ t.wait = true ∧
        t.pc = s.pc - 2) ∧
      ((∃ k, k < 16 ∧ keyDown s k = true) → s.wait = true → OnlyChanges [.pc] s t ∧ t.pc = s.pc - 2) ∧
      ((∀ k, k < 16 → keyDown s k = false) → s.wait = true → OnlyChanges [.wait] s t ∧ t.wait = false)
end

