-- ==== Sys2Proof/Laws/Decode.lean ====
section
/-! SUPPORT. The fields of a word put together from fields, the words of R101 as fields side by side, and a word put together again from its fields. -/

namespace Sys2Proof

open Sys2Proof.Safety

theorem toNat_append {m n : Nat} (a : BitVec m) (b : BitVec n) : (a ++ b).toNat = a.toNat * 2 ^ n + b.toNat := by
  rw [BitVec.toNat_append, ← Nat.shiftLeft_add_eq_or_of_lt b.isLt, Nat.shiftLeft_eq]

theorem toNat_extract {w : Nat} (a : BitVec w) (k n : Nat) : (a.extractLsb' k n).toNat = a.toNat / 2 ^ k % 2 ^ n := by
  simp [Nat.shiftRight_eq_div_pow]

/-! ## Fields of a word made of fields (R91) -/

@[simp] theorem classOf_xyn (c x y n : BitVec 4) : classOf (c ++ x ++ y ++ n) = c := by
  apply BitVec.eq_of_toNat_eq
  have := c.isLt; have := x.isLt; have := y.isLt; have := n.isLt
  simp only [classOf, toNat_extract, toNat_append]
  omega

@[simp] theorem fieldX_xyn (c x y n : BitVec 4) : fieldX (c ++ x ++ y ++ n) = x := by
  apply BitVec.eq_of_toNat_eq
  have := c.isLt; have := x.isLt; have := y.isLt; have := n.isLt
  simp only [fieldX, toNat_extract, toNat_append]
  omega

@[simp] theorem fieldY_xyn (c x y n : BitVec 4) : fieldY (c ++ x ++ y ++ n) = y := by
  apply BitVec.eq_of_toNat_eq
  have := c.isLt; have := x.isLt; have := y.isLt; have := n.isLt
  simp only [fieldY, toNat_extract, toNat_append]
  omega

@[simp] theorem fieldN_xyn (c x y n : BitVec 4) : fieldN (c ++ x ++ y ++ n) = n := by
  apply BitVec.eq_of_toNat_eq
  have := c.isLt; have := x.isLt; have := y.isLt; have := n.isLt
  simp only [fieldN, toNat_extract, toNat_append]
  omega

@[simp] theorem classOf_xnn (c x : BitVec 4) (nn : BitVec 8) : classOf (c ++ x ++ nn) = c := by
  apply BitVec.eq_of_toNat_eq
  have := c.isLt; have := x.isLt; have := nn.isLt
  simp only [classOf, toNat_extract, toNat_append]
  omega

@[simp] theorem fieldX_xnn (c x : BitVec 4) (nn : BitVec 8) : fieldX (c ++ x ++ nn) = x := by
  apply BitVec.eq_of_toNat_eq
  have := c.isLt; have := x.isLt; have := nn.isLt
  simp only [fieldX, toNat_extract, toNat_append]
  omega

@[simp] theorem fieldNN_xnn (c x : BitVec 4) (nn : BitVec 8) : fieldNN (c ++ x ++ nn) = nn := by
  apply BitVec.eq_of_toNat_eq
  have := c.isLt; have := x.isLt; have := nn.isLt
  simp only [fieldNN, toNat_extract, toNat_append]
  omega

@[simp] theorem classOf_nnn (c : BitVec 4) (nnn : BitVec 12) : classOf (c ++ nnn) = c := by
  apply BitVec.eq_of_toNat_eq
  have := c.isLt; have := nnn.isLt
  simp only [classOf, toNat_extract, toNat_append]
  omega

@[simp] theorem fieldNNN_nnn (c : BitVec 4) (nnn : BitVec 12) : fieldNNN (c ++ nnn) = nnn := by
  apply BitVec.eq_of_toNat_eq
  have := c.isLt; have := nnn.isLt
  simp only [fieldNNN, toNat_extract, toNat_append]
  omega

@[simp] theorem classOf_n (k : BitVec 12) (n : BitVec 4) : classOf (k ++ n) = k.extractLsb' 8 4 := by
  apply BitVec.eq_of_toNat_eq
  have := k.isLt; have := n.isLt
  simp only [classOf, toNat_extract, toNat_append]
  omega

@[simp] theorem fieldN_n (k : BitVec 12) (n : BitVec 4) : fieldN (k ++ n) = n := by
  apply BitVec.eq_of_toNat_eq
  have := k.isLt; have := n.isLt
  simp only [fieldN, toNat_extract, toNat_append]
  omega

/-! ## A word from its fields (R91) -/

theorem word_of_xyn (op : Word) : classOf op ++ fieldX op ++ fieldY op ++ fieldN op = op := by
  apply BitVec.eq_of_toNat_eq
  have := op.isLt
  simp only [classOf, fieldX, fieldY, fieldN, toNat_extract, toNat_append]
  omega

theorem word_of_xnn (op : Word) : classOf op ++ fieldX op ++ fieldNN op = op := by
  apply BitVec.eq_of_toNat_eq
  have := op.isLt
  simp only [classOf, fieldX, fieldNN, toNat_extract, toNat_append]
  omega

theorem word_of_nnn (op : Word) : classOf op ++ fieldNNN op = op := by
  apply BitVec.eq_of_toNat_eq
  have := op.isLt
  simp only [classOf, fieldNNN, toNat_extract, toNat_append]
  omega

/-- The bytes of a word, put together again (R63). -/
@[simp] theorem wordOfBytes_bytesOfWord (op : Word) :
    wordOfBytes (op.extractLsb' 8 8) (op.extractLsb' 0 8) = op := by
  apply BitVec.eq_of_toNat_eq
  have := op.isLt
  simp only [wordOfBytes, toNat_extract, toNat_append]
  omega

/-! ## The words of R101: `match | (X << 8) | (Y << 4) | N` -/

theorem or_xyn (c x y n : BitVec 4) : c.setWidth 16 <<< 12 ||| atX x ||| atY y ||| atN n = c ++ x ++ y ++ n := by
  apply BitVec.eq_of_getLsbD_eq
  intro i hi
  simp only [atX, atY, atN, BitVec.getLsbD_append, BitVec.getLsbD_or, BitVec.getLsbD_shiftLeft, BitVec.getLsbD_setWidth]
  interval_cases i <;> simp

theorem or_xy (c k x y : BitVec 4) : (c.setWidth 16 <<< 12 ||| k.setWidth 16) ||| atX x ||| atY y = c ++ x ++ y ++ k := by
  apply BitVec.eq_of_getLsbD_eq
  intro i hi
  simp only [atX, atY, BitVec.getLsbD_append, BitVec.getLsbD_or, BitVec.getLsbD_shiftLeft, BitVec.getLsbD_setWidth]
  interval_cases i <;> simp

theorem or_xnn (c x : BitVec 4) (nn : BitVec 8) : c.setWidth 16 <<< 12 ||| atX x ||| atNN nn = c ++ x ++ nn := by
  apply BitVec.eq_of_getLsbD_eq
  intro i hi
  simp only [atX, atNN, BitVec.getLsbD_append, BitVec.getLsbD_or, BitVec.getLsbD_shiftLeft, BitVec.getLsbD_setWidth]
  interval_cases i <;> simp

theorem or_x (c x : BitVec 4) (k : BitVec 8) : (c.setWidth 16 <<< 12 ||| k.setWidth 16) ||| atX x = c ++ x ++ k := by
  apply BitVec.eq_of_getLsbD_eq
  intro i hi
  simp only [atX, BitVec.getLsbD_append, BitVec.getLsbD_or, BitVec.getLsbD_shiftLeft, BitVec.getLsbD_setWidth]
  interval_cases i <;> simp

theorem or_nnn (c : BitVec 4) (nnn : BitVec 12) : c.setWidth 16 <<< 12 ||| atNNN nnn = c ++ nnn := by
  apply BitVec.eq_of_getLsbD_eq
  intro i hi
  simp only [atNNN, BitVec.getLsbD_append, BitVec.getLsbD_or, BitVec.getLsbD_shiftLeft, BitVec.getLsbD_setWidth]
  interval_cases i <;> simp

theorem or_n (k : BitVec 12) (n : BitVec 4) : k.setWidth 16 <<< 4 ||| atN n = k ++ n := by
  apply BitVec.eq_of_getLsbD_eq
  intro i hi
  simp only [atN, BitVec.getLsbD_append, BitVec.getLsbD_or, BitVec.getLsbD_shiftLeft, BitVec.getLsbD_setWidth]
  interval_cases i <;> simp

end Sys2Proof
end

