-- ==== Sys2Proof/Laws/Memory.lean ====
section
/-! SUPPORT. Every memory operation keeps the canonical form; a read after a write; equal contents are equal lists. -/

namespace Sys2Proof.Machine

theorem memWfFrom_mono {lo lo' : Nat} {m : List Host.Cell} (hle : lo' ≤ lo) (h : memWfFrom lo m = true) :
    memWfFrom lo' m = true := by
  cases m with
  | nil => rfl
  | cons c rest =>
    simp only [memWfFrom, Bool.and_eq_true, decide_eq_true_eq] at h ⊢
    exact ⟨⟨⟨by omega, h.1.1.2⟩, h.1.2⟩, h.2⟩

/-- An address below the first listed one reads as an unlisted byte. -/
theorem memRead_below {lo a : Nat} {m : List Host.Cell} (h : memWfFrom lo m = true) (ha : a < lo) :
    memRead m a = unlistedByte := by
  induction m generalizing lo with
  | nil => rfl
  | cons c rest ih =>
    obtain ⟨b, w⟩ := c
    simp only [memWfFrom, Bool.and_eq_true, decide_eq_true_eq] at h
    have hne : a ≠ b := by omega
    simp only [memRead, hne, if_false]
    exact ih h.2 (by omega)

theorem memCell_append_wf {lo a : Nat} {w : Byte} {rest : List Host.Cell} (hlo : lo ≤ a) (ha : a < memSize)
    (h : memWfFrom (a + 1) rest = true) : memWfFrom lo (memCell a w ++ rest) = true := by
  unfold memCell
  split
  · exact memWfFrom_mono (by omega) h
  · simp [memWfFrom, *]

theorem memWrite_wfFrom {lo a : Nat} {w : Byte} {m : List Host.Cell} (hlo : lo ≤ a) (ha : a < memSize)
    (h : memWfFrom lo m = true) : memWfFrom lo (memWrite m a w) = true := by
  induction m generalizing lo with
  | nil => simpa [memWrite] using memCell_append_wf (rest := []) hlo ha rfl
  | cons c rest ih =>
    obtain ⟨b, u⟩ := c
    have h' := h
    simp only [memWfFrom, Bool.and_eq_true, decide_eq_true_eq] at h'
    unfold memWrite
    split
    · refine memCell_append_wf hlo ha ?_
      simp only [memWfFrom, Bool.and_eq_true, decide_eq_true_eq]
      exact ⟨⟨⟨by omega, h'.1.1.2⟩, h'.1.2⟩, h'.2⟩
    · split
      · rename_i hab
        exact memCell_append_wf hlo ha (hab ▸ h'.2)
      · simp only [memWfFrom, Bool.and_eq_true, decide_eq_true_eq]
        exact ⟨⟨⟨h'.1.1.1, h'.1.1.2⟩, h'.1.2⟩, ih (by omega) h'.2⟩

/-- Writing a byte within the 4096 keeps the canonical form. -/
theorem memWrite_wf {a : Nat} {w : Byte} {m : List Host.Cell} (ha : a < memSize) (h : Memory.wf m = true) :
    Memory.wf (memWrite m a w) = true := memWrite_wfFrom (Nat.zero_le a) ha h

theorem memRead_memCell_append {a b : Nat} {w : Byte} {rest : List Host.Cell}
    (h : memWfFrom (a + 1) rest = true) :
    memRead (memCell a w ++ rest) b = if b = a then w else memRead rest b := by
  unfold memCell
  split
  · rename_i hw
    split
    · rename_i hb
      rw [List.nil_append, memRead_below h (by omega), hw]
    · rfl
  · simp [memRead]

theorem memRead_memWriteFrom {lo a b : Nat} {w : Byte} {m : List Host.Cell} (h : memWfFrom lo m = true) :
    memRead (memWrite m a w) b = if b = a then w else memRead m b := by
  induction m generalizing lo with
  | nil => simpa [memWrite] using memRead_memCell_append (a := a) (b := b) (w := w) (rest := []) rfl
  | cons c rest ih =>
    obtain ⟨d, u⟩ := c
    have h' := h
    simp only [memWfFrom, Bool.and_eq_true, decide_eq_true_eq] at h'
    unfold memWrite
    split
    · refine memRead_memCell_append ?_
      simp only [memWfFrom, Bool.and_eq_true, decide_eq_true_eq]
      exact ⟨⟨⟨by omega, h'.1.1.2⟩, h'.1.2⟩, h'.2⟩
    · split
      · rename_i hd
        subst hd
        rw [memRead_memCell_append h'.2]
        by_cases hb : b = a <;> simp [memRead, hb]
      · rename_i hd
        by_cases hb : b = d
        · subst hb
          have : b ≠ a := fun e => hd e.symm
          simp [memRead, this]
        · simp only [memRead, hb, if_false]
          exact ih h'.2

/-- A read after a write: the byte written at that address, every other byte as before (R60, R67). -/
theorem memRead_memWrite {a b : Nat} {w : Byte} {m : List Host.Cell} (h : Memory.wf m = true) :
    memRead (memWrite m a w) b = if b = a then w else memRead m b := memRead_memWriteFrom h

/-- Storing bytes that all lie within the 4096 keeps the canonical form. -/
theorem memWriteAll_wf {a : Nat} {ws : List Byte} {m : List Host.Cell} (ha : a + ws.length ≤ memSize)
    (h : Memory.wf m = true) : Memory.wf (memWriteAll m a ws) = true := by
  induction ws generalizing a m with
  | nil => exact h
  | cons w rest ih =>
    simp only [List.length_cons] at ha
    exact ih (by omega) (memWrite_wf (by omega) h)

/-- A read after a store of several bytes (R64): the byte stored there, or the byte that was there before. -/
theorem memRead_memWriteAll {a b : Nat} {ws : List Byte} {m : List Host.Cell} (ha : a + ws.length ≤ memSize)
    (h : Memory.wf m = true) :
    memRead (memWriteAll m a ws) b = if a ≤ b ∧ b < a + ws.length then ws.getD (b - a) 0 else memRead m b := by
  induction ws generalizing a m with
  | nil =>
    have : ¬(a ≤ b ∧ b < a + 0) := by omega
    simp only [memWriteAll, List.length_nil, this, if_false]
  | cons w rest ih =>
    simp only [List.length_cons] at ha
    rw [memWriteAll, ih (by omega) (memWrite_wf (by omega) h), memRead_memWrite h]
    simp only [List.length_cons]
    by_cases hba : b = a
    · subst hba
      have h2 : b ≤ b ∧ b < b + (rest.length + 1) := by omega
      simp [h2]
    · by_cases hin : a + 1 ≤ b ∧ b < a + 1 + rest.length
      · have h2 : a ≤ b ∧ b < a + (rest.length + 1) := by omega
        obtain ⟨j, hj⟩ : ∃ j, b - a = j + 1 := ⟨b - a - 1, by omega⟩
        have hj' : b - (a + 1) = j := by omega
        simp only [hin, h2, and_self, if_true, hj, hj', List.getD_cons_succ]
      · have h2 : ¬(a ≤ b ∧ b < a + (rest.length + 1)) := by omega
        simp only [hin, h2, hba, if_false]

/-- Two memories in canonical form that read the same at every address are the same list. -/
theorem memWfFrom_ext {lo : Nat} {m m' : List Host.Cell} (h : memWfFrom lo m = true) (h' : memWfFrom lo m' = true)
    (heq : ∀ a, memRead m a = memRead m' a) : m = m' := by
  induction m generalizing lo m' with
  | nil =>
    cases m' with
    | nil => rfl
    | cons c' rest' =>
      obtain ⟨b, w⟩ := c'
      simp only [memWfFrom, Bool.and_eq_true, decide_eq_true_eq] at h'
      have := heq b
      simp only [memRead, if_true] at this
      exact absurd this.symm h'.1.2
  | cons c rest ih =>
    obtain ⟨b, w⟩ := c
    have hc := h
    simp only [memWfFrom, Bool.and_eq_true, decide_eq_true_eq] at hc
    cases m' with
    | nil =>
      have := heq b
      simp only [memRead, if_true] at this
      exact absurd this hc.1.2
    | cons c' rest' =>
      obtain ⟨b', w'⟩ := c'
      have hc' := h'
      simp only [memWfFrom, Bool.and_eq_true, decide_eq_true_eq] at hc'
      have hbb : b = b' := by
        rcases Nat.lt_trichotomy b b' with hlt | heq' | hgt
        · have e := heq b
          have hr : memRead rest' b = unlistedByte := memRead_below hc'.2 (by omega)
          have hne : b ≠ b' := by omega
          simp only [memRead, if_true, hne, if_false, hr] at e
          exact absurd e hc.1.2
        · exact heq'
        · have e := heq b'
          have hr : memRead rest b' = unlistedByte := memRead_below hc.2 (by omega)
          have hne : b' ≠ b := by omega
          simp only [memRead, if_true, hne, if_false, hr] at e
          exact absurd e.symm hc'.1.2
      subst hbb
      have hw : w = w' := by simpa [memRead] using heq b
      subst hw
      rw [ih hc.2 hc'.2]
      intro a
      by_cases hab : a = b
      · subst hab
        rw [memRead_below hc.2 (by omega), memRead_below hc'.2 (by omega)]
      · simpa [memRead, hab] using heq a

/-- `writeBytes` keeps the canonical form where its range test has passed (R62). -/
theorem writeBytes_wf {a : Nat} {ws : List Byte} {s : State} (hr : outOfRange a ws.length = false)
    (h : Memory.wf s.mem = true) : Memory.wf (writeBytes a ws s).mem = true := by
  simp only [outOfRange, decide_eq_false_iff_not, Nat.not_lt] at hr
  exact memWriteAll_wf hr h

/-- What a byte reads as after `writeBytes` where its range test has passed. -/
theorem readByte_writeBytes {a b : Nat} {ws : List Byte} {s : State} (hr : outOfRange a ws.length = false)
    (h : Memory.wf s.mem = true) :
    readByte (writeBytes a ws s) b = if a ≤ b ∧ b < a + ws.length then ws.getD (b - a) 0 else readByte s b := by
  simp only [outOfRange, decide_eq_false_iff_not, Nat.not_lt] at hr
  exact memRead_memWriteAll hr h

/-- The memory of the reset state is in canonical form. -/
theorem reset_memory_wf : Memory.wf State.reset.mem = true := rfl

end Sys2Proof.Machine
end

