-- ==== Sys2Proof/Laws/State.lean ====
section
/-! SUPPORT. One lemma for each field of State and each update of it, so that no later proof unfolds a record update. -/

namespace Sys2Proof.Machine

variable (s : State)

/-! ## setV -/

@[simp] theorem setV_mem (k : Reg) (b : Byte) : (setV k b s).mem = s.mem := rfl
@[simp] theorem setV_v (k : Reg) (b : Byte) : (setV k b s).v = s.v.set k.toNat b k.isLt := rfl
@[simp] theorem setV_i (k : Reg) (b : Byte) : (setV k b s).i = s.i := rfl
@[simp] theorem setV_pc (k : Reg) (b : Byte) : (setV k b s).pc = s.pc := rfl
@[simp] theorem setV_stack (k : Reg) (b : Byte) : (setV k b s).stack = s.stack := rfl
@[simp] theorem setV_dt (k : Reg) (b : Byte) : (setV k b s).dt = s.dt := rfl
@[simp] theorem setV_st (k : Reg) (b : Byte) : (setV k b s).st = s.st := rfl
@[simp] theorem setV_rpl (k : Reg) (b : Byte) : (setV k b s).rpl = s.rpl := rfl
@[simp] theorem setV_keys (k : Reg) (b : Byte) : (setV k b s).keys = s.keys := rfl
@[simp] theorem setV_wait (k : Reg) (b : Byte) : (setV k b s).wait = s.wait := rfl
@[simp] theorem setV_hires (k : Reg) (b : Byte) : (setV k b s).hires = s.hires := rfl
@[simp] theorem setV_pix (k : Reg) (b : Byte) : (setV k b s).pix = s.pix := rfl
@[simp] theorem setV_quirks (k : Reg) (b : Byte) : (setV k b s).quirks = s.quirks := rfl
@[simp] theorem setV_draws (k : Reg) (b : Byte) : (setV k b s).draws = s.draws := rfl
@[simp] theorem setV_outcome (k : Reg) (b : Byte) : (setV k b s).outcome = s.outcome := rfl
@[simp] theorem getRpl_setV (k : Reg) (b : Byte) (r : Reg) : getRpl (setV k b s) r = getRpl s r := rfl
@[simp] theorem readByte_setV (k : Reg) (b : Byte) (a' : Nat) : readByte (setV k b s) a' = readByte s a' := rfl
@[simp] theorem sp_setV (k : Reg) (b : Byte) : (setV k b s).sp = s.sp := rfl
@[simp] theorem pixel_setV (k : Reg) (b : Byte) (row col : Nat) : pixel (setV k b s) row col = pixel s row col := rfl
@[simp] theorem fetch_setV (k : Reg) (b : Byte) : fetch (setV k b s) = fetch s := rfl

/-! ## loadRegsUpTo -/

@[simp] theorem loadRegsUpTo_mem (x : Reg) (f : Nat → Byte) : (loadRegsUpTo x f s).mem = s.mem := rfl
@[simp] theorem loadRegsUpTo_i (x : Reg) (f : Nat → Byte) : (loadRegsUpTo x f s).i = s.i := rfl
@[simp] theorem loadRegsUpTo_pc (x : Reg) (f : Nat → Byte) : (loadRegsUpTo x f s).pc = s.pc := rfl
@[simp] theorem loadRegsUpTo_stack (x : Reg) (f : Nat → Byte) : (loadRegsUpTo x f s).stack = s.stack := rfl
@[simp] theorem loadRegsUpTo_dt (x : Reg) (f : Nat → Byte) : (loadRegsUpTo x f s).dt = s.dt := rfl
@[simp] theorem loadRegsUpTo_st (x : Reg) (f : Nat → Byte) : (loadRegsUpTo x f s).st = s.st := rfl
@[simp] theorem loadRegsUpTo_rpl (x : Reg) (f : Nat → Byte) : (loadRegsUpTo x f s).rpl = s.rpl := rfl
@[simp] theorem loadRegsUpTo_keys (x : Reg) (f : Nat → Byte) : (loadRegsUpTo x f s).keys = s.keys := rfl
@[simp] theorem loadRegsUpTo_wait (x : Reg) (f : Nat → Byte) : (loadRegsUpTo x f s).wait = s.wait := rfl
@[simp] theorem loadRegsUpTo_hires (x : Reg) (f : Nat → Byte) : (loadRegsUpTo x f s).hires = s.hires := rfl
@[simp] theorem loadRegsUpTo_pix (x : Reg) (f : Nat → Byte) : (loadRegsUpTo x f s).pix = s.pix := rfl
@[simp] theorem loadRegsUpTo_quirks (x : Reg) (f : Nat → Byte) : (loadRegsUpTo x f s).quirks = s.quirks := rfl
@[simp] theorem loadRegsUpTo_draws (x : Reg) (f : Nat → Byte) : (loadRegsUpTo x f s).draws = s.draws := rfl
@[simp] theorem loadRegsUpTo_outcome (x : Reg) (f : Nat → Byte) : (loadRegsUpTo x f s).outcome = s.outcome := rfl
@[simp] theorem getRpl_loadRegsUpTo (x : Reg) (f : Nat → Byte) (r : Reg) : getRpl (loadRegsUpTo x f s) r = getRpl s r := rfl
@[simp] theorem readByte_loadRegsUpTo (x : Reg) (f : Nat → Byte) (a' : Nat) : readByte (loadRegsUpTo x f s) a' = readByte s a' := rfl
@[simp] theorem sp_loadRegsUpTo (x : Reg) (f : Nat → Byte) : (loadRegsUpTo x f s).sp = s.sp := rfl
@[simp] theorem pixel_loadRegsUpTo (x : Reg) (f : Nat → Byte) (row col : Nat) : pixel (loadRegsUpTo x f s) row col = pixel s row col := rfl
@[simp] theorem fetch_loadRegsUpTo (x : Reg) (f : Nat → Byte) : fetch (loadRegsUpTo x f s) = fetch s := rfl

/-! ## saveRpl -/

@[simp] theorem saveRpl_mem (x : Reg) : (saveRpl x s).mem = s.mem := rfl
@[simp] theorem saveRpl_v (x : Reg) : (saveRpl x s).v = s.v := rfl
@[simp] theorem saveRpl_i (x : Reg) : (saveRpl x s).i = s.i := rfl
@[simp] theorem saveRpl_pc (x : Reg) : (saveRpl x s).pc = s.pc := rfl
@[simp] theorem saveRpl_stack (x : Reg) : (saveRpl x s).stack = s.stack := rfl
@[simp] theorem saveRpl_dt (x : Reg) : (saveRpl x s).dt = s.dt := rfl
@[simp] theorem saveRpl_st (x : Reg) : (saveRpl x s).st = s.st := rfl
@[simp] theorem saveRpl_keys (x : Reg) : (saveRpl x s).keys = s.keys := rfl
@[simp] theorem saveRpl_wait (x : Reg) : (saveRpl x s).wait = s.wait := rfl
@[simp] theorem saveRpl_hires (x : Reg) : (saveRpl x s).hires = s.hires := rfl
@[simp] theorem saveRpl_pix (x : Reg) : (saveRpl x s).pix = s.pix := rfl
@[simp] theorem saveRpl_quirks (x : Reg) : (saveRpl x s).quirks = s.quirks := rfl
@[simp] theorem saveRpl_draws (x : Reg) : (saveRpl x s).draws = s.draws := rfl
@[simp] theorem saveRpl_outcome (x : Reg) : (saveRpl x s).outcome = s.outcome := rfl
@[simp] theorem getV_saveRpl (x : Reg) (r : Reg) : getV (saveRpl x s) r = getV s r := rfl
@[simp] theorem readByte_saveRpl (x : Reg) (a' : Nat) : readByte (saveRpl x s) a' = readByte s a' := rfl
@[simp] theorem sp_saveRpl (x : Reg) : (saveRpl x s).sp = s.sp := rfl
@[simp] theorem pixel_saveRpl (x : Reg) (row col : Nat) : pixel (saveRpl x s) row col = pixel s row col := rfl
@[simp] theorem fetch_saveRpl (x : Reg) : fetch (saveRpl x s) = fetch s := rfl

/-! ## setI -/

@[simp] theorem setI_mem (w : Word) : (setI w s).mem = s.mem := rfl
@[simp] theorem setI_v (w : Word) : (setI w s).v = s.v := rfl
@[simp] theorem setI_i (w : Word) : (setI w s).i = w := rfl
@[simp] theorem setI_pc (w : Word) : (setI w s).pc = s.pc := rfl
@[simp] theorem setI_stack (w : Word) : (setI w s).stack = s.stack := rfl
@[simp] theorem setI_dt (w : Word) : (setI w s).dt = s.dt := rfl
@[simp] theorem setI_st (w : Word) : (setI w s).st = s.st := rfl
@[simp] theorem setI_rpl (w : Word) : (setI w s).rpl = s.rpl := rfl
@[simp] theorem setI_keys (w : Word) : (setI w s).keys = s.keys := rfl
@[simp] theorem setI_wait (w : Word) : (setI w s).wait = s.wait := rfl
@[simp] theorem setI_hires (w : Word) : (setI w s).hires = s.hires := rfl
@[simp] theorem setI_pix (w : Word) : (setI w s).pix = s.pix := rfl
@[simp] theorem setI_quirks (w : Word) : (setI w s).quirks = s.quirks := rfl
@[simp] theorem setI_draws (w : Word) : (setI w s).draws = s.draws := rfl
@[simp] theorem setI_outcome (w : Word) : (setI w s).outcome = s.outcome := rfl
@[simp] theorem getV_setI (w : Word) (r : Reg) : getV (setI w s) r = getV s r := rfl
@[simp] theorem getRpl_setI (w : Word) (r : Reg) : getRpl (setI w s) r = getRpl s r := rfl
@[simp] theorem readByte_setI (w : Word) (a' : Nat) : readByte (setI w s) a' = readByte s a' := rfl
@[simp] theorem sp_setI (w : Word) : (setI w s).sp = s.sp := rfl
@[simp] theorem pixel_setI (w : Word) (row col : Nat) : pixel (setI w s) row col = pixel s row col := rfl
@[simp] theorem fetch_setI (w : Word) : fetch (setI w s) = fetch s := rfl

/-! ## setPc -/

@[simp] theorem setPc_mem (w : Word) : (setPc w s).mem = s.mem := rfl
@[simp] theorem setPc_v (w : Word) : (setPc w s).v = s.v := rfl
@[simp] theorem setPc_i (w : Word) : (setPc w s).i = s.i := rfl
@[simp] theorem setPc_pc (w : Word) : (setPc w s).pc = w := rfl
@[simp] theorem setPc_stack (w : Word) : (setPc w s).stack = s.stack := rfl
@[simp] theorem setPc_dt (w : Word) : (setPc w s).dt = s.dt := rfl
@[simp] theorem setPc_st (w : Word) : (setPc w s).st = s.st := rfl
@[simp] theorem setPc_rpl (w : Word) : (setPc w s).rpl = s.rpl := rfl
@[simp] theorem setPc_keys (w : Word) : (setPc w s).keys = s.keys := rfl
@[simp] theorem setPc_wait (w : Word) : (setPc w s).wait = s.wait := rfl
@[simp] theorem setPc_hires (w : Word) : (setPc w s).hires = s.hires := rfl
@[simp] theorem setPc_pix (w : Word) : (setPc w s).pix = s.pix := rfl
@[simp] theorem setPc_quirks (w : Word) : (setPc w s).quirks = s.quirks := rfl
@[simp] theorem setPc_draws (w : Word) : (setPc w s).draws = s.draws := rfl
@[simp] theorem setPc_outcome (w : Word) : (setPc w s).outcome = s.outcome := rfl
@[simp] theorem getV_setPc (w : Word) (r : Reg) : getV (setPc w s) r = getV s r := rfl
@[simp] theorem getRpl_setPc (w : Word) (r : Reg) : getRpl (setPc w s) r = getRpl s r := rfl
@[simp] theorem readByte_setPc (w : Word) (a' : Nat) : readByte (setPc w s) a' = readByte s a' := rfl
@[simp] theorem sp_setPc (w : Word) : (setPc w s).sp = s.sp := rfl
@[simp] theorem pixel_setPc (w : Word) (row col : Nat) : pixel (setPc w s) row col = pixel s row col := rfl

/-! ## advance -/

@[simp] theorem advance_mem : (advance s).mem = s.mem := rfl
@[simp] theorem advance_v : (advance s).v = s.v := rfl
@[simp] theorem advance_i : (advance s).i = s.i := rfl
@[simp] theorem advance_pc : (advance s).pc = s.pc + 2 := rfl
@[simp] theorem advance_stack : (advance s).stack = s.stack := rfl
@[simp] theorem advance_dt : (advance s).dt = s.dt := rfl
@[simp] theorem advance_st : (advance s).st = s.st := rfl
@[simp] theorem advance_rpl : (advance s).rpl = s.rpl := rfl
@[simp] theorem advance_keys : (advance s).keys = s.keys := rfl
@[simp] theorem advance_wait : (advance s).wait = s.wait := rfl
@[simp] theorem advance_hires : (advance s).hires = s.hires := rfl
@[simp] theorem advance_pix : (advance s).pix = s.pix := rfl
@[simp] theorem advance_quirks : (advance s).quirks = s.quirks := rfl
@[simp] theorem advance_draws : (advance s).draws = s.draws := rfl
@[simp] theorem advance_outcome : (advance s).outcome = s.outcome := rfl
@[simp] theorem getV_advance (r : Reg) : getV (advance s) r = getV s r := rfl
@[simp] theorem getRpl_advance (r : Reg) : getRpl (advance s) r = getRpl s r := rfl
@[simp] theorem readByte_advance (a' : Nat) : readByte (advance s) a' = readByte s a' := rfl
@[simp] theorem sp_advance : (advance s).sp = s.sp := rfl
@[simp] theorem pixel_advance (row col : Nat) : pixel (advance s) row col = pixel s row col := rfl

/-! ## rollBack -/

@[simp] theorem rollBack_mem : (rollBack s).mem = s.mem := rfl
@[simp] theorem rollBack_v : (rollBack s).v = s.v := rfl
@[simp] theorem rollBack_i : (rollBack s).i = s.i := rfl
@[simp] theorem rollBack_pc : (rollBack s).pc = s.pc - 2 := rfl
@[simp] theorem rollBack_stack : (rollBack s).stack = s.stack := rfl
@[simp] theorem rollBack_dt : (rollBack s).dt = s.dt := rfl
@[simp] theorem rollBack_st : (rollBack s).st = s.st := rfl
@[simp] theorem rollBack_rpl : (rollBack s).rpl = s.rpl := rfl
@[simp] theorem rollBack_keys : (rollBack s).keys = s.keys := rfl
@[simp] theorem rollBack_wait : (rollBack s).wait = s.wait := rfl
@[simp] theorem rollBack_hires : (rollBack s).hires = s.hires := rfl
@[simp] theorem rollBack_pix : (rollBack s).pix = s.pix := rfl
@[simp] theorem rollBack_quirks : (rollBack s).quirks = s.quirks := rfl
@[simp] theorem rollBack_draws : (rollBack s).draws = s.draws := rfl
@[simp] theorem rollBack_outcome : (rollBack s).outcome = s.outcome := rfl
@[simp] theorem getV_rollBack (r : Reg) : getV (rollBack s) r = getV s r := rfl
@[simp] theorem getRpl_rollBack (r : Reg) : getRpl (rollBack s) r = getRpl s r := rfl
@[simp] theorem readByte_rollBack (a' : Nat) : readByte (rollBack s) a' = readByte s a' := rfl
@[simp] theorem sp_rollBack : (rollBack s).sp = s.sp := rfl
@[simp] theorem pixel_rollBack (row col : Nat) : pixel (rollBack s) row col = pixel s row col := rfl

/-! ## setDt -/

@[simp] theorem setDt_mem (b : Byte) : (setDt b s).mem = s.mem := rfl
@[simp] theorem setDt_v (b : Byte) : (setDt b s).v = s.v := rfl
@[simp] theorem setDt_i (b : Byte) : (setDt b s).i = s.i := rfl
@[simp] theorem setDt_pc (b : Byte) : (setDt b s).pc = s.pc := rfl
@[simp] theorem setDt_stack (b : Byte) : (setDt b s).stack = s.stack := rfl
@[simp] theorem setDt_dt (b : Byte) : (setDt b s).dt = b := rfl
@[simp] theorem setDt_st (b : Byte) : (setDt b s).st = s.st := rfl
@[simp] theorem setDt_rpl (b : Byte) : (setDt b s).rpl = s.rpl := rfl
@[simp] theorem setDt_keys (b : Byte) : (setDt b s).keys = s.keys := rfl
@[simp] theorem setDt_wait (b : Byte) : (setDt b s).wait = s.wait := rfl
@[simp] theorem setDt_hires (b : Byte) : (setDt b s).hires = s.hires := rfl
@[simp] theorem setDt_pix (b : Byte) : (setDt b s).pix = s.pix := rfl
@[simp] theorem setDt_quirks (b : Byte) : (setDt b s).quirks = s.quirks := rfl
@[simp] theorem setDt_draws (b : Byte) : (setDt b s).draws = s.draws := rfl
@[simp] theorem setDt_outcome (b : Byte) : (setDt b s).outcome = s.outcome := rfl
@[simp] theorem getV_setDt (b : Byte) (r : Reg) : getV (setDt b s) r = getV s r := rfl
@[simp] theorem getRpl_setDt (b : Byte) (r : Reg) : getRpl (setDt b s) r = getRpl s r := rfl
@[simp] theorem readByte_setDt (b : Byte) (a' : Nat) : readByte (setDt b s) a' = readByte s a' := rfl
@[simp] theorem sp_setDt (b : Byte) : (setDt b s).sp = s.sp := rfl
@[simp] theorem pixel_setDt (b : Byte) (row col : Nat) : pixel (setDt b s) row col = pixel s row col := rfl
@[simp] theorem fetch_setDt (b : Byte) : fetch (setDt b s) = fetch s := rfl

/-! ## setSt -/

@[simp] theorem setSt_mem (b : Byte) : (setSt b s).mem = s.mem := rfl
@[simp] theorem setSt_v (b : Byte) : (setSt b s).v = s.v := rfl
@[simp] theorem setSt_i (b : Byte) : (setSt b s).i = s.i := rfl
@[simp] theorem setSt_pc (b : Byte) : (setSt b s).pc = s.pc := rfl
@[simp] theorem setSt_stack (b : Byte) : (setSt b s).stack = s.stack := rfl
@[simp] theorem setSt_dt (b : Byte) : (setSt b s).dt = s.dt := rfl
@[simp] theorem setSt_st (b : Byte) : (setSt b s).st = b := rfl
@[simp] theorem setSt_rpl (b : Byte) : (setSt b s).rpl = s.rpl := rfl
@[simp] theorem setSt_keys (b : Byte) : (setSt b s).keys = s.keys := rfl
@[simp] theorem setSt_wait (b : Byte) : (setSt b s).wait = s.wait := rfl
@[simp] theorem setSt_hires (b : Byte) : (setSt b s).hires = s.hires := rfl
@[simp] theorem setSt_pix (b : Byte) : (setSt b s).pix = s.pix := rfl
@[simp] theorem setSt_quirks (b : Byte) : (setSt b s).quirks = s.quirks := rfl
@[simp] theorem setSt_draws (b : Byte) : (setSt b s).draws = s.draws := rfl
@[simp] theorem setSt_outcome (b : Byte) : (setSt b s).outcome = s.outcome := rfl
@[simp] theorem getV_setSt (b : Byte) (r : Reg) : getV (setSt b s) r = getV s r := rfl
@[simp] theorem getRpl_setSt (b : Byte) (r : Reg) : getRpl (setSt b s) r = getRpl s r := rfl
@[simp] theorem readByte_setSt (b : Byte) (a' : Nat) : readByte (setSt b s) a' = readByte s a' := rfl
@[simp] theorem sp_setSt (b : Byte) : (setSt b s).sp = s.sp := rfl
@[simp] theorem pixel_setSt (b : Byte) (row col : Nat) : pixel (setSt b s) row col = pixel s row col := rfl
@[simp] theorem fetch_setSt (b : Byte) : fetch (setSt b s) = fetch s := rfl

/-! ## setWait -/

@[simp] theorem setWait_mem (b : Bool) : (setWait b s).mem = s.mem := rfl
@[simp] theorem setWait_v (b : Bool) : (setWait b s).v = s.v := rfl
@[simp] theorem setWait_i (b : Bool) : (setWait b s).i = s.i := rfl
@[simp] theorem setWait_pc (b : Bool) : (setWait b s).pc = s.pc := rfl
@[simp] theorem setWait_stack (b : Bool) : (setWait b s).stack = s.stack := rfl
@[simp] theorem setWait_dt (b : Bool) : (setWait b s).dt = s.dt := rfl
@[simp] theorem setWait_st (b : Bool) : (setWait b s).st = s.st := rfl
@[simp] theorem setWait_rpl (b : Bool) : (setWait b s).rpl = s.rpl := rfl
@[simp] theorem setWait_keys (b : Bool) : (setWait b s).keys = s.keys := rfl
@[simp] theorem setWait_wait (b : Bool) : (setWait b s).wait = b := rfl
@[simp] theorem setWait_hires (b : Bool) : (setWait b s).hires = s.hires := rfl
@[simp] theorem setWait_pix (b : Bool) : (setWait b s).pix = s.pix := rfl
@[simp] theorem setWait_quirks (b : Bool) : (setWait b s).quirks = s.quirks := rfl
@[simp] theorem setWait_draws (b : Bool) : (setWait b s).draws = s.draws := rfl
@[simp] theorem setWait_outcome (b : Bool) : (setWait b s).outcome = s.outcome := rfl
@[simp] theorem getV_setWait (b : Bool) (r : Reg) : getV (setWait b s) r = getV s r := rfl
@[simp] theorem getRpl_setWait (b : Bool) (r : Reg) : getRpl (setWait b s) r = getRpl s r := rfl
@[simp] theorem readByte_setWait (b : Bool) (a' : Nat) : readByte (setWait b s) a' = readByte s a' := rfl
@[simp] theorem sp_setWait (b : Bool) : (setWait b s).sp = s.sp := rfl
@[simp] theorem pixel_setWait (b : Bool) (row col : Nat) : pixel (setWait b s) row col = pixel s row col := rfl
@[simp] theorem fetch_setWait (b : Bool) : fetch (setWait b s) = fetch s := rfl

/-! ## push -/

@[simp] theorem push_mem (w : Word) : (push w s).mem = s.mem := rfl
@[simp] theorem push_v (w : Word) : (push w s).v = s.v := rfl
@[simp] theorem push_i (w : Word) : (push w s).i = s.i := rfl
@[simp] theorem push_pc (w : Word) : (push w s).pc = s.pc := rfl
@[simp] theorem push_stack (w : Word) : (push w s).stack = s.stack ++ [w] := rfl
@[simp] theorem push_dt (w : Word) : (push w s).dt = s.dt := rfl
@[simp] theorem push_st (w : Word) : (push w s).st = s.st := rfl
@[simp] theorem push_rpl (w : Word) : (push w s).rpl = s.rpl := rfl
@[simp] theorem push_keys (w : Word) : (push w s).keys = s.keys := rfl
@[simp] theorem push_wait (w : Word) : (push w s).wait = s.wait := rfl
@[simp] theorem push_hires (w : Word) : (push w s).hires = s.hires := rfl
@[simp] theorem push_pix (w : Word) : (push w s).pix = s.pix := rfl
@[simp] theorem push_quirks (w : Word) : (push w s).quirks = s.quirks := rfl
@[simp] theorem push_draws (w : Word) : (push w s).draws = s.draws := rfl
@[simp] theorem push_outcome (w : Word) : (push w s).outcome = s.outcome := rfl
@[simp] theorem getV_push (w : Word) (r : Reg) : getV (push w s) r = getV s r := rfl
@[simp] theorem getRpl_push (w : Word) (r : Reg) : getRpl (push w s) r = getRpl s r := rfl
@[simp] theorem readByte_push (w : Word) (a' : Nat) : readByte (push w s) a' = readByte s a' := rfl
@[simp] theorem pixel_push (w : Word) (row col : Nat) : pixel (push w s) row col = pixel s row col := rfl
@[simp] theorem fetch_push (w : Word) : fetch (push w s) = fetch s := rfl

/-! ## dropTop -/

@[simp] theorem dropTop_mem : (dropTop s).mem = s.mem := rfl
@[simp] theorem dropTop_v : (dropTop s).v = s.v := rfl
@[simp] theorem dropTop_i : (dropTop s).i = s.i := rfl
@[simp] theorem dropTop_pc : (dropTop s).pc = s.pc := rfl
@[simp] theorem dropTop_stack : (dropTop s).stack = s.stack.dropLast := rfl
@[simp] theorem dropTop_dt : (dropTop s).dt = s.dt := rfl
@[simp] theorem dropTop_st : (dropTop s).st = s.st := rfl
@[simp] theorem dropTop_rpl : (dropTop s).rpl = s.rpl := rfl
@[simp] theorem dropTop_keys : (dropTop s).keys = s.keys := rfl
@[simp] theorem dropTop_wait : (dropTop s).wait = s.wait := rfl
@[simp] theorem dropTop_hires : (dropTop s).hires = s.hires := rfl
@[simp] theorem dropTop_pix : (dropTop s).pix = s.pix := rfl
@[simp] theorem dropTop_quirks : (dropTop s).quirks = s.quirks := rfl
@[simp] theorem dropTop_draws : (dropTop s).draws = s.draws := rfl
@[simp] theorem dropTop_outcome : (dropTop s).outcome = s.outcome := rfl
@[simp] theorem getV_dropTop (r : Reg) : getV (dropTop s) r = getV s r := rfl
@[simp] theorem getRpl_dropTop (r : Reg) : getRpl (dropTop s) r = getRpl s r := rfl
@[simp] theorem readByte_dropTop (a' : Nat) : readByte (dropTop s) a' = readByte s a' := rfl
@[simp] theorem pixel_dropTop (row col : Nat) : pixel (dropTop s) row col = pixel s row col := rfl
@[simp] theorem fetch_dropTop : fetch (dropTop s) = fetch s := rfl

/-! ## setPix -/

@[simp] theorem setPix_mem (p : List Bool) : (setPix p s).mem = s.mem := rfl
@[simp] theorem setPix_v (p : List Bool) : (setPix p s).v = s.v := rfl
@[simp] theorem setPix_i (p : List Bool) : (setPix p s).i = s.i := rfl
@[simp] theorem setPix_pc (p : List Bool) : (setPix p s).pc = s.pc := rfl
@[simp] theorem setPix_stack (p : List Bool) : (setPix p s).stack = s.stack := rfl
@[simp] theorem setPix_dt (p : List Bool) : (setPix p s).dt = s.dt := rfl
@[simp] theorem setPix_st (p : List Bool) : (setPix p s).st = s.st := rfl
@[simp] theorem setPix_rpl (p : List Bool) : (setPix p s).rpl = s.rpl := rfl
@[simp] theorem setPix_keys (p : List Bool) : (setPix p s).keys = s.keys := rfl
@[simp] theorem setPix_wait (p : List Bool) : (setPix p s).wait = s.wait := rfl
@[simp] theorem setPix_hires (p : List Bool) : (setPix p s).hires = s.hires := rfl
@[simp] theorem setPix_pix (p : List Bool) : (setPix p s).pix = p := rfl
@[simp] theorem setPix_quirks (p : List Bool) : (setPix p s).quirks = s.quirks := rfl
@[simp] theorem setPix_draws (p : List Bool) : (setPix p s).draws = s.draws := rfl
@[simp] theorem setPix_outcome (p : List Bool) : (setPix p s).outcome = s.outcome := rfl
@[simp] theorem getV_setPix (p : List Bool) (r : Reg) : getV (setPix p s) r = getV s r := rfl
@[simp] theorem getRpl_setPix (p : List Bool) (r : Reg) : getRpl (setPix p s) r = getRpl s r := rfl
@[simp] theorem readByte_setPix (p : List Bool) (a' : Nat) : readByte (setPix p s) a' = readByte s a' := rfl
@[simp] theorem sp_setPix (p : List Bool) : (setPix p s).sp = s.sp := rfl
@[simp] theorem fetch_setPix (p : List Bool) : fetch (setPix p s) = fetch s := rfl

/-! ## enterMode -/

@[simp] theorem enterMode_mem (h : Bool) : (enterMode h s).mem = s.mem := rfl
@[simp] theorem enterMode_v (h : Bool) : (enterMode h s).v = s.v := rfl
@[simp] theorem enterMode_i (h : Bool) : (enterMode h s).i = s.i := rfl
@[simp] theorem enterMode_pc (h : Bool) : (enterMode h s).pc = s.pc := rfl
@[simp] theorem enterMode_stack (h : Bool) : (enterMode h s).stack = s.stack := rfl
@[simp] theorem enterMode_dt (h : Bool) : (enterMode h s).dt = s.dt := rfl
@[simp] theorem enterMode_st (h : Bool) : (enterMode h s).st = s.st := rfl
@[simp] theorem enterMode_rpl (h : Bool) : (enterMode h s).rpl = s.rpl := rfl
@[simp] theorem enterMode_keys (h : Bool) : (enterMode h s).keys = s.keys := rfl
@[simp] theorem enterMode_wait (h : Bool) : (enterMode h s).wait = s.wait := rfl
@[simp] theorem enterMode_hires (h : Bool) : (enterMode h s).hires = h := rfl
@[simp] theorem enterMode_pix (h : Bool) : (enterMode h s).pix = blankScreen h := rfl
@[simp] theorem enterMode_quirks (h : Bool) : (enterMode h s).quirks = s.quirks := rfl
@[simp] theorem enterMode_draws (h : Bool) : (enterMode h s).draws = s.draws := rfl
@[simp] theorem enterMode_outcome (h : Bool) : (enterMode h s).outcome = s.outcome := rfl
@[simp] theorem getV_enterMode (h : Bool) (r : Reg) : getV (enterMode h s) r = getV s r := rfl
@[simp] theorem getRpl_enterMode (h : Bool) (r : Reg) : getRpl (enterMode h s) r = getRpl s r := rfl
@[simp] theorem readByte_enterMode (h : Bool) (a' : Nat) : readByte (enterMode h s) a' = readByte s a' := rfl
@[simp] theorem sp_enterMode (h : Bool) : (enterMode h s).sp = s.sp := rfl
@[simp] theorem fetch_enterMode (h : Bool) : fetch (enterMode h s) = fetch s := rfl

/-! ## sampled -/

@[simp] theorem sampled_mem : (sampled s).mem = s.mem := rfl
@[simp] theorem sampled_v : (sampled s).v = s.v := rfl
@[simp] theorem sampled_i : (sampled s).i = s.i := rfl
@[simp] theorem sampled_pc : (sampled s).pc = s.pc := rfl
@[simp] theorem sampled_stack : (sampled s).stack = s.stack := rfl
@[simp] theorem sampled_dt : (sampled s).dt = s.dt := rfl
@[simp] theorem sampled_st : (sampled s).st = s.st := rfl
@[simp] theorem sampled_rpl : (sampled s).rpl = s.rpl := rfl
@[simp] theorem sampled_keys : (sampled s).keys = s.keys := rfl
@[simp] theorem sampled_wait : (sampled s).wait = s.wait := rfl
@[simp] theorem sampled_hires : (sampled s).hires = s.hires := rfl
@[simp] theorem sampled_pix : (sampled s).pix = s.pix := rfl
@[simp] theorem sampled_quirks : (sampled s).quirks = s.quirks := rfl
@[simp] theorem sampled_draws : (sampled s).draws = s.draws + 1 := rfl
@[simp] theorem sampled_outcome : (sampled s).outcome = s.outcome := rfl
@[simp] theorem getV_sampled (r : Reg) : getV (sampled s) r = getV s r := rfl
@[simp] theorem getRpl_sampled (r : Reg) : getRpl (sampled s) r = getRpl s r := rfl
@[simp] theorem readByte_sampled (a' : Nat) : readByte (sampled s) a' = readByte s a' := rfl
@[simp] theorem sp_sampled : (sampled s).sp = s.sp := rfl
@[simp] theorem pixel_sampled (row col : Nat) : pixel (sampled s) row col = pixel s row col := rfl
@[simp] theorem fetch_sampled : fetch (sampled s) = fetch s := rfl

/-! ## report -/

@[simp] theorem report_mem (o : StepOutcome) : (report o s).mem = s.mem := rfl
@[simp] theorem report_v (o : StepOutcome) : (report o s).v = s.v := rfl
@[simp] theorem report_i (o : StepOutcome) : (report o s).i = s.i := rfl
@[simp] theorem report_pc (o : StepOutcome) : (report o s).pc = s.pc := rfl
@[simp] theorem report_stack (o : StepOutcome) : (report o s).stack = s.stack := rfl
@[simp] theorem report_dt (o : StepOutcome) : (report o s).dt = s.dt := rfl
@[simp] theorem report_st (o : StepOutcome) : (report o s).st = s.st := rfl
@[simp] theorem report_rpl (o : StepOutcome) : (report o s).rpl = s.rpl := rfl
@[simp] theorem report_keys (o : StepOutcome) : (report o s).keys = s.keys := rfl
@[simp] theorem report_wait (o : StepOutcome) : (report o s).wait = s.wait := rfl
@[simp] theorem report_hires (o : StepOutcome) : (report o s).hires = s.hires := rfl
@[simp] theorem report_pix (o : StepOutcome) : (report o s).pix = s.pix := rfl
@[simp] theorem report_quirks (o : StepOutcome) : (report o s).quirks = s.quirks := rfl
@[simp] theorem report_draws (o : StepOutcome) : (report o s).draws = s.draws := rfl
@[simp] theorem report_outcome (o : StepOutcome) : (report o s).outcome = o := rfl
@[simp] theorem getV_report (o : StepOutcome) (r : Reg) : getV (report o s) r = getV s r := rfl
@[simp] theorem getRpl_report (o : StepOutcome) (r : Reg) : getRpl (report o s) r = getRpl s r := rfl
@[simp] theorem readByte_report (o : StepOutcome) (a' : Nat) : readByte (report o s) a' = readByte s a' := rfl
@[simp] theorem sp_report (o : StepOutcome) : (report o s).sp = s.sp := rfl
@[simp] theorem pixel_report (o : StepOutcome) (row col : Nat) : pixel (report o s) row col = pixel s row col := rfl
@[simp] theorem fetch_report (o : StepOutcome) : fetch (report o s) = fetch s := rfl

/-! ## writeBytes -/

@[simp] theorem writeBytes_mem (a : Nat) (ws : List Byte) : (writeBytes a ws s).mem = memWriteAll s.mem a ws := rfl
@[simp] theorem writeBytes_v (a : Nat) (ws : List Byte) : (writeBytes a ws s).v = s.v := rfl
@[simp] theorem writeBytes_i (a : Nat) (ws : List Byte) : (writeBytes a ws s).i = s.i := rfl
@[simp] theorem writeBytes_pc (a : Nat) (ws : List Byte) : (writeBytes a ws s).pc = s.pc := rfl
@[simp] theorem writeBytes_stack (a : Nat) (ws : List Byte) : (writeBytes a ws s).stack = s.stack := rfl
@[simp] theorem writeBytes_dt (a : Nat) (ws : List Byte) : (writeBytes a ws s).dt = s.dt := rfl
@[simp] theorem writeBytes_st (a : Nat) (ws : List Byte) : (writeBytes a ws s).st = s.st := rfl
@[simp] theorem writeBytes_rpl (a : Nat) (ws : List Byte) : (writeBytes a ws s).rpl = s.rpl := rfl
@[simp] theorem writeBytes_keys (a : Nat) (ws : List Byte) : (writeBytes a ws s).keys = s.keys := rfl
@[simp] theorem writeBytes_wait (a : Nat) (ws : List Byte) : (writeBytes a ws s).wait = s.wait := rfl
@[simp] theorem writeBytes_hires (a : Nat) (ws : List Byte) : (writeBytes a ws s).hires = s.hires := rfl
@[simp] theorem writeBytes_pix (a : Nat) (ws : List Byte) : (writeBytes a ws s).pix = s.pix := rfl
@[simp] theorem writeBytes_quirks (a : Nat) (ws : List Byte) : (writeBytes a ws s).quirks = s.quirks := rfl
@[simp] theorem writeBytes_draws (a : Nat) (ws : List Byte) : (writeBytes a ws s).draws = s.draws := rfl
@[simp] theorem writeBytes_outcome (a : Nat) (ws : List Byte) : (writeBytes a ws s).outcome = s.outcome := rfl
@[simp] theorem getV_writeBytes (a : Nat) (ws : List Byte) (r : Reg) : getV (writeBytes a ws s) r = getV s r := rfl
@[simp] theorem getRpl_writeBytes (a : Nat) (ws : List Byte) (r : Reg) : getRpl (writeBytes a ws s) r = getRpl s r := rfl
@[simp] theorem sp_writeBytes (a : Nat) (ws : List Byte) : (writeBytes a ws s).sp = s.sp := rfl
@[simp] theorem pixel_writeBytes (a : Nat) (ws : List Byte) (row col : Nat) : pixel (writeBytes a ws s) row col = pixel s row col := rfl

end Sys2Proof.Machine
end

