-- ==== Sys2Proof/Laws/Ops.lean ====
section
/-! SUPPORT. For each shared operation, one lemma that says everything it can do. -/

namespace Sys2Proof.Machine

/-! ## Ending a Step -/

@[simp] theorem complete_eq (s : State) : complete s = .next (report .ok s) := rfl

@[simp] theorem raise_eq (o : StepOutcome) (s : State) : raise o s = .next (report o s) := rfl

@[simp] theorem signalExit_eq (s : State) : signalExit s = .next (report .exit s) := rfl

theorem outOfRange_iff (a n : Nat) : outOfRange a n = true ↔ 4095 < a + n - 1 ∧ 0 < a + n := by
  simp only [outOfRange, memSize, decide_eq_true_eq]
  omega

theorem not_outOfRange_iff (a n : Nat) : outOfRange a n = false ↔ a + n ≤ 4096 := by
  simp [outOfRange, memSize]

/-! ## Registers -/

/-- Writing one register: that register, and no other (R20). -/
theorem getV_setV (k r : Reg) (b : Byte) (s : State) : getV (setV k b s) r = if r = k then b else getV s r := by
  simp only [getV, setV, Vector.getElem_set]
  by_cases h : r = k
  · subst h
    simp
  · have hne : k.toNat ≠ r.toNat := fun e => h (BitVec.eq_of_toNat_eq e.symm)
    simp [h, hne]

@[simp] theorem getV_setV_self (k : Reg) (b : Byte) (s : State) : getV (setV k b s) k = b := by
  simp [getV_setV]

theorem getV_setV_ne {k r : Reg} (h : r ≠ k) (b : Byte) (s : State) : getV (setV k b s) r = getV s r := by
  simp [getV_setV, h]

/-- The result register and VF, VF last (R127). -/
theorem getV_setResultAndFlag (x r : Reg) (b : Byte) (f : Bool) (s : State) :
    getV (setResultAndFlag x b f s) r = if r = regF then flagByte f else if r = x then b else getV s r := by
  simp only [setResultAndFlag, setVF, getV_setV]

/-- The result of a logical instruction, and VF cleared last where `Q.logic` is true (R163). -/
theorem getV_setLogicResult (x r : Reg) (b : Byte) (s : State) :
    getV (setLogicResult x b s) r =
      if s.quirks.logic = true ∧ r = regF then 0 else if r = x then b else getV s r := by
  unfold setLogicResult
  split
  · rename_i h
    simp [setVF, getV_setV, h]
  · rename_i h
    simp [getV_setV, h]

/-- The loop over a file of sixteen bytes: the entries below `n` are taken from `f`, the others are kept. -/
theorem getElem_overwrite (f : Nat → Byte) (n : Nat) (file : Vector Byte 16) (k : Nat) (hk : k < 16) :
    (overwrite f n file)[k] = if k < n then f k else file[k] := by
  induction n with
  | zero => simp [overwrite]
  | succ n ih =>
    rw [overwrite, Vector.getElem_setIfInBounds, ih]
    by_cases h : n = k
    · subst h
      simp
    · by_cases h2 : k < n
      · have h3 : k < n + 1 := by omega
        simp [h, h2, h3]
      · have h3 : ¬k < n + 1 := by omega
        simp [h, h2, h3]

/-- Loading the registers `V[0..x]` (R186). -/
theorem getV_loadRegsUpTo (x r : Reg) (f : Nat → Byte) (s : State) :
    getV (loadRegsUpTo x f s) r = if r.toNat ≤ x.toNat then f r.toNat else getV s r := by
  simp only [getV, loadRegsUpTo, getElem_overwrite, Nat.lt_succ_iff]

theorem toList_getD_v (s : State) (r : Reg) : s.v.toList.getD r.toNat 0 = getV s r := by
  have h : r.toNat < 16 := r.isLt
  simp [getV, List.getD, h]

theorem toList_getD_rpl (s : State) (r : Reg) : s.rpl.toList.getD r.toNat 0 = getRpl s r := by
  have h : r.toNat < 16 := r.isLt
  simp [getRpl, List.getD, h]

/-- Saving the registers `V[0..x]` to the flag registers (R187). -/
theorem getRpl_saveRpl (x r : Reg) (s : State) :
    getRpl (saveRpl x s) r = if r.toNat ≤ x.toNat then getV s r else getRpl s r := by
  simp only [getRpl, saveRpl, getElem_overwrite, Nat.lt_succ_iff, toList_getD_v]

/-- Restoring the registers `V[0..x]` from the flag registers (R188). -/
theorem getV_restoreRpl (x r : Reg) (s : State) :
    getV (restoreRpl x s) r = if r.toNat ≤ x.toNat then getRpl s r else getV s r := by
  simp only [restoreRpl, getV_loadRegsUpTo, toList_getD_rpl]

@[simp] theorem regsUpTo_length (x : Reg) (s : State) : (regsUpTo x s).length = x.toNat + 1 := by
  have h : x.toNat < 16 := x.isLt
  simp [regsUpTo]
  omega

/-- The bytes FX55 stores (R185). -/
theorem regsUpTo_getD (x r : Reg) (s : State) (h : r.toNat ≤ x.toNat) : (regsUpTo x s).getD r.toNat 0 = getV s r := by
  have h1 : r.toNat < x.toNat + 1 := by omega
  have h2 : r.toNat < 16 := r.isLt
  simp [regsUpTo, getV, List.getD, h1, h2]

@[simp] theorem decimalDigits_length (b : Byte) : (decimalDigits b).length = 3 := rfl

/-! ## Program counter -/

/-- A skip writes `pc` and nothing else (R144). -/
theorem skipIf_eq (taken : Bool) (s : State) : skipIf taken s = setPc (if taken then s.pc + 2 else s.pc) s := by
  cases taken <;> rfl

/-! ## Stack (R24) -/

theorem topOfStack_none_iff (s : State) : topOfStack s = none ↔ s.stack = [] := by
  simp [topOfStack]

/-- A pop gives back the entry pushed last. -/
theorem topOfStack_some {s : State} {a : Word} (h : topOfStack s = some a) :
    s.stack = (dropTop s).stack ++ [a] ∧ a ∈ s.stack := by
  simp only [topOfStack] at h
  exact ⟨(List.dropLast_append_getLast? a h).symm, List.mem_of_getLast? h⟩

/-! ## Keys (R27, R233) -/

theorem lowestKey_none_iff (s : State) : lowestKey s = none ↔ ∀ k, k < 16 → keyDown s k = false := by
  simp [lowestKey]

/-- The key captured is down, and no lower one is. -/
theorem lowestKey_some_iff (s : State) (k : Nat) :
    lowestKey s = some k ↔ k < 16 ∧ keyDown s k = true ∧ ∀ j, j < k → keyDown s j = false := by
  simp only [lowestKey, List.find?_range_eq_some, Bool.not_eq_true', List.mem_range]
  constructor
  · rintro ⟨h1, h2, h3⟩
    exact ⟨h2, h1, h3⟩
  · rintro ⟨h1, h2, h3⟩
    exact ⟨h2, h1, h3⟩

/-! ## Display -/

theorem cols_pos (h : Bool) : 0 < cols h := by cases h <;> decide

theorem rows_pos (h : Bool) : 0 < rows h := by cases h <;> decide

/-- A pixel of the screen has an index within the bitmap (R77). -/
theorem pixelIndex_lt {h : Bool} {row col : Nat} (hr : row < rows h) (hc : col < cols h) :
    pixelIndex h row col < screenLen h := by
  have h1 : (row + 1) * cols h ≤ rows h * cols h := Nat.mul_le_mul_right _ hr
  have h2 : (row + 1) * cols h = row * cols h + cols h := by rw [Nat.add_mul, Nat.one_mul]
  have h3 : screenLen h = rows h * cols h := Nat.mul_comm _ _
  simp only [pixelIndex]
  omega

/-- Two pixels of the screen with one index are one pixel. -/
theorem pixelIndex_inj {h : Bool} {row col row' col' : Nat} (hc : col < cols h) (hc' : col' < cols h)
    (he : pixelIndex h row col = pixelIndex h row' col') : row = row' ∧ col = col' := by
  simp only [pixelIndex] at he
  cases h <;> simp only [cols] at * <;> constructor <;> simp_all <;> omega

@[simp] theorem blankScreen_length (h : Bool) : (blankScreen h).length = screenLen h := by simp [blankScreen]

theorem rotatePix_length (len d : Nat) (pix : List Bool) : (rotatePix len d pix).length = pix.length := by
  simp [rotatePix]
  omega

/-- A rotation moves the pixel at `k` to `(k + d) mod len` (R203 to R205). -/
theorem rotatePix_getD {len d k : Nat} {pix : List Bool} (hl : pix.length = len) (hd : d ≤ len) (hk : k < len) :
    (rotatePix len d pix).getD ((k + d) % len) false = pix.getD k false := by
  subst hl
  simp only [rotatePix, List.getD]
  by_cases h : k + d < pix.length
  · rw [Nat.mod_eq_of_lt h, List.getElem?_append_right (by simp; omega)]
    simp only [List.length_drop]
    have h1 : k + d - (pix.length - (pix.length - d)) = k := by omega
    rw [h1, List.getElem?_take_of_lt (by omega)]
  · have h1 : (k + d) % pix.length = k + d - pix.length := by
      rw [Nat.mod_eq_sub_mod (by omega), Nat.mod_eq_of_lt (by omega)]
    rw [h1, List.getElem?_append_left (by simp; omega), List.getElem?_drop]
    congr 2
    omega

/-- `Toggle` on a pixel of the screen: it never raises, turns that pixel over, and says whether it was on (R201). -/
theorem toggle_eq {h : Bool} {row col : Nat} (hr : row < rows h) (hc : col < cols h) (pix : List Bool) :
    toggle h row col pix =
      some (pix.set (pixelIndex h row col) (!pix.getD (pixelIndex h row col) false),
        pix.getD (pixelIndex h row col) false) := by
  have : ¬(rows h ≤ row ∨ cols h ≤ col) := by omega
  simp [toggle, this]

/-- Every pixel `Plot` draws is a pixel of the screen (R77, R211). -/
theorem plotTarget_inRange {h wrap : Bool} {x0 y0 dx dy row col : Nat}
    (ht : plotTarget h wrap x0 y0 dx dy = some (row, col)) : row < rows h ∧ col < cols h := by
  simp only [plotTarget] at ht
  split at ht
  · simp only [Option.some.injEq, Prod.mk.injEq] at ht
    obtain ⟨rfl, rfl⟩ := ht
    exact ⟨Nat.mod_lt _ (rows_pos h), Nat.mod_lt _ (cols_pos h)⟩
  · split at ht
    · cases ht
    · simp only [Option.some.injEq, Prod.mk.injEq] at ht
      obtain ⟨rfl, rfl⟩ := ht
      omega

/-- A plot never raises and keeps the bitmap's size. -/
theorem plot_some (h wrap : Bool) (x0 y0 dx dy : Nat) (pix : List Bool) :
    ∃ pix' p, plot h wrap x0 y0 dx dy pix = some (pix', p) ∧ pix'.length = pix.length := by
  unfold plot
  split
  · exact ⟨pix, false, rfl, rfl⟩
  · rename_i row col ht
    obtain ⟨hr, hc⟩ := plotTarget_inRange ht
    exact ⟨_, _, toggle_eq hr hc pix, by simp⟩

/-- A draw never raises inside Toggle and keeps the bitmap's size (R77). -/
theorem plotAll_some (h wrap : Bool) (x0 y0 : Nat) (points : List (Nat × Nat)) (pix : List Bool) :
    ∃ pix' hit, plotAll h wrap x0 y0 points pix = some (pix', hit) ∧ pix'.length = pix.length := by
  induction points generalizing pix with
  | nil => exact ⟨pix, false, rfl, rfl⟩
  | cons d rest ih =>
    obtain ⟨dx, dy⟩ := d
    obtain ⟨pix1, p, h1, hl1⟩ := plot_some h wrap x0 y0 dx dy pix
    obtain ⟨pix2, hit, h2, hl2⟩ := ih pix1
    exact ⟨pix2, p || hit, by simp [plotAll, h1, h2], by omega⟩

/-- A draw either faults on its range test, or completes with a bitmap of the same size and VF the collision flag. -/
theorem drawSprite_eq (nbytes : Nat) (points : List (Nat × Nat)) (x y : Reg) (s : State) :
    (outOfRange s.i.toNat nbytes = true ∧ drawSprite nbytes points x y s = .next (report .indexOutOfRange s)) ∨
    (outOfRange s.i.toNat nbytes = false ∧ ∃ pix hit,
      plotAll s.hires s.quirks.wrap (startColumn x s) (startRow y s) points s.pix = some (pix, hit) ∧
      pix.length = s.pix.length ∧
      drawSprite nbytes points x y s = .next (report .ok (setVF (flagByte hit) (setPix pix s)))) := by
  obtain ⟨pix, hit, h, hl⟩ := plotAll_some s.hires s.quirks.wrap (startColumn x s) (startRow y s) points s.pix
  cases hr : outOfRange s.i.toNat nbytes
  · exact .inr ⟨rfl, pix, hit, h, hl, by simp [drawSprite, hr, h]⟩
  · exact .inl ⟨rfl, by simp [drawSprite, hr]⟩

/-! ## Fetch (R121) -/

/-- Fetch reads the two bytes at `pc`, big-endian, and raises exactly where `pc > 4094`. -/
theorem fetch_eq (s : State) :
    fetch s = if 4094 < s.pc.toNat then none
      else some (readByte s s.pc.toNat ++ readByte s (s.pc.toNat + 1)) := by
  simp only [fetch, fetchBytes, outOfRange, memSize, decide_eq_true_eq]
  by_cases h : 4094 < s.pc.toNat
  · have h1 : 4096 < s.pc.toNat + 2 := by omega
    simp [h, h1]
  · have h1 : ¬4096 < s.pc.toNat + 2 := by omega
    simp [h, h1, wordOfBytes]

end Sys2Proof.Machine
end

