-- ==== Sys2Proof/Laws/Step.lean ====
section
/-! SUPPORT. Everything a Step, a Tick and a KeyEvent can do, and the frame predicate's own laws. -/

namespace Sys2Proof.Machine

open Sys2Proof.Safety

/-- Every case of a Step (R120): a fetch fault, an illegal word, or the decoded instruction with `pc` advanced. -/
theorem step_cases {s t : State} (h : step s = .next t) :
    (fetch s = none ∧ 4094 < s.pc.toNat ∧ t = report .indexOutOfRange s) ∨
    (∃ op e, fetch s = some op ∧ decodeWord s.hires op = .error e ∧ nextInstr s = none ∧
      t = report (.invalidOpcode op) (advance s)) ∨
    (∃ op i, fetch s = some op ∧ decodeWord s.hires op = .ok i ∧ nextInstr s = some i ∧
      exec i (advance s) = .next t) := by
  unfold step at h
  split at h
  · rename_i hf
    refine .inl ⟨hf, ?_, (Host.Outcome.next.inj h).symm⟩
    rw [fetch_eq] at hf
    split at hf
    · assumption
    · cases hf
  · rename_i op hf
    split at h
    · rename_i e hd
      exact .inr (.inl ⟨op, e, hf, hd, by simp [nextInstr, hf, hd], (Host.Outcome.next.inj h).symm⟩)
    · rename_i i hd
      exact .inr (.inr ⟨op, i, hf, hd, by simp [nextInstr, hf, hd], h⟩)

/-- Where the bytes at `pc` are an instruction, a Step runs it. -/
theorem step_of_nextInstr {s : State} {i : Instr} (h : nextInstr s = some i) : step s = exec i (advance s) := by
  unfold nextInstr at h
  unfold step
  split at h
  · cases h
  · rename_i op hf
    split at h
    · rename_i j hd
      cases h
      simp_all
    · cases h

/-- A fetch reads only memory and `pc`. -/
theorem fetch_congr {s t : State} (hm : t.mem = s.mem) (hp : t.pc = s.pc) : fetch t = fetch s := by
  simp only [fetch, fetchBytes, readByte, hm, hp]

/-- The next instruction depends only on memory, `pc` and the display mode. -/
theorem nextInstr_congr {s t : State} (hm : t.mem = s.mem) (hp : t.pc = s.pc) (hh : t.hires = s.hires) :
    nextInstr t = nextInstr s := by
  simp only [nextInstr, fetch_congr hm hp, hh]

end Sys2Proof.Machine

namespace Sys2Proof.Safety

open Sys2Proof.Machine

theorem Same.refl (s : State) (c : Component) : Same s s c := by
  cases c <;> first | rfl | exact fun _ => rfl

theorem Same.trans {s t u : State} {c : Component} (h1 : Same s t c) (h2 : Same t u c) : Same s u c := by
  cases c <;> simp_all [Same]

/-- The outcome output is no piece of state. -/
theorem same_report (o : StepOutcome) (s t : State) (c : Component) : Same s (report o t) c ↔ Same s t c := by
  cases c <;> rfl

theorem onlyChanges_refl (cs : List Component) (s : State) : OnlyChanges cs s s := fun c _ => Same.refl s c

theorem onlyChanges_report (cs : List Component) (o : StepOutcome) (s : State) : OnlyChanges cs s (report o s) :=
  fun c _ => (same_report o s s c).2 (Same.refl s c)

theorem onlyChanges_mono {cs ds : List Component} {s t : State} (h : ∀ c, c ∈ cs → c ∈ ds)
    (hs : OnlyChanges cs s t) : OnlyChanges ds s t := fun c hc => hs c fun hm => hc (h c hm)

end Sys2Proof.Safety
end

