-- ==== Sys2Proof/Laws/HostPort.lean ====
section
/-! SUPPORT. What the host's operations do to each field, and what a run does at its head. -/

namespace Sys2Proof.Machine

open Sys2Proof.Safety

/-- A timer counts down and saturates at zero (R236). -/
theorem countDown_toNat (b : Byte) : (countDown b).toNat = b.toNat - 1 := by
  unfold countDown
  split
  · rename_i h
    subst h
    rfl
  · rename_i h
    have h1 : b.toNat ≠ 0 := fun e => h (BitVec.eq_of_toNat_eq e)
    have h2 := b.isLt
    simp [BitVec.toNat_sub]
    omega

@[simp] theorem tick_mem (s : State) : (tick s).mem = s.mem := rfl
@[simp] theorem tick_pc (s : State) : (tick s).pc = s.pc := rfl
@[simp] theorem tick_stack (s : State) : (tick s).stack = s.stack := rfl
@[simp] theorem tick_hires (s : State) : (tick s).hires = s.hires := rfl
@[simp] theorem tick_pix (s : State) : (tick s).pix = s.pix := rfl
@[simp] theorem tick_wait (s : State) : (tick s).wait = s.wait := rfl
@[simp] theorem keyEvent_mem (k : BitVec 4) (p : Bool) (s : State) : (keyEvent k p s).mem = s.mem := rfl
@[simp] theorem keyEvent_pc (k : BitVec 4) (p : Bool) (s : State) : (keyEvent k p s).pc = s.pc := rfl
@[simp] theorem keyEvent_stack (k : BitVec 4) (p : Bool) (s : State) : (keyEvent k p s).stack = s.stack := rfl
@[simp] theorem keyEvent_hires (k : BitVec 4) (p : Bool) (s : State) : (keyEvent k p s).hires = s.hires := rfl
@[simp] theorem keyEvent_pix (k : BitVec 4) (p : Bool) (s : State) : (keyEvent k p s).pix = s.pix := rfl
@[simp] theorem keyEvent_wait (k : BitVec 4) (p : Bool) (s : State) : (keyEvent k p s).wait = s.wait := rfl

/-- Each field that the loading of bytes leaves (R282). -/
theorem foldl_hostLoad (ps : List (Addr12 × Byte)) (s : State) :
    ∃ m, ps.foldl (fun t p => hostLoad p t) s = { s with mem := m } := by
  induction ps generalizing s with
  | nil => exact ⟨s.mem, rfl⟩
  | cons p rest ih =>
    obtain ⟨m, hm⟩ := ih (hostLoad p s)
    exact ⟨m, by rw [List.foldl_cons, hm]; rfl⟩

/-- The loading of bytes keeps the canonical form of memory. -/
theorem foldl_hostLoad_wf (ps : List (Addr12 × Byte)) (s : State) (h : Memory.wf s.mem = true) :
    Memory.wf (ps.foldl (fun t p => hostLoad p t) s).mem = true := by
  induction ps generalizing s with
  | nil => exact h
  | cons p rest ih => exact ih _ (memWrite_wf p.1.isLt h)

end Sys2Proof.Machine
end

