-- ==== Sys2Proof/Laws/PerInstr.lean ====
section
/-! SUPPORT. Statements made once for each instruction, about the instruction as it is written: its word decodes to it. -/

namespace Sys2Proof.Laws.Encoding

-- All these theorems wait for the equations of `encode`; waiting side by side each would hold a thread.
set_option Elab.async false

/-- In high-res, the word of a well-formed instruction decodes to it; in low-res too, but for DXY0 (R94, R97). -/
def Statement (i : Instr) : Prop :=
  wellFormed i = true →
    decodeWord true (encode i) = .ok i ∧ ((∀ x y, i ≠ .opDXY0 x y) → decodeWord false (encode i) = .ok i)

theorem op00CN (n : Nibble) : Statement (.op00CN n) := by
  revert n
  unfold Statement
  decide

theorem op00E0 : Statement .op00E0 := fun _ => ⟨rfl, fun _ => rfl⟩

theorem op00EE : Statement .op00EE := fun _ => ⟨rfl, fun _ => rfl⟩

theorem op00FB : Statement .op00FB := fun _ => ⟨rfl, fun _ => rfl⟩

theorem op00FC : Statement .op00FC := fun _ => ⟨rfl, fun _ => rfl⟩

theorem op00FD : Statement .op00FD := fun _ => ⟨rfl, fun _ => rfl⟩

theorem op00FE : Statement .op00FE := fun _ => ⟨rfl, fun _ => rfl⟩

theorem op00FF : Statement .op00FF := fun _ => ⟨rfl, fun _ => rfl⟩

theorem op1NNN (nnn : Addr12) : Statement (.op1NNN nnn) := by
  intro _
  simp [decodeWord, encode]

theorem op2NNN (nnn : Addr12) : Statement (.op2NNN nnn) := by
  intro _
  simp [decodeWord, encode]

theorem op3XNN (x : Reg) (nn : Byte) : Statement (.op3XNN x nn) := by
  intro _
  simp [decodeWord, encode]

theorem op4XNN (x : Reg) (nn : Byte) : Statement (.op4XNN x nn) := by
  intro _
  simp [decodeWord, encode]

theorem op5XY0 (x y : Reg) : Statement (.op5XY0 x y) := by
  intro _
  simp [decodeWord, encode]

theorem op6XNN (x : Reg) (nn : Byte) : Statement (.op6XNN x nn) := by
  intro _
  simp [decodeWord, encode]

theorem op7XNN (x : Reg) (nn : Byte) : Statement (.op7XNN x nn) := by
  intro _
  simp [decodeWord, encode]

theorem op8XY0 (x y : Reg) : Statement (.op8XY0 x y) := by
  intro _
  simp [decodeWord, encode, decodeClass8]

theorem op8XY1 (x y : Reg) : Statement (.op8XY1 x y) := by
  intro _
  simp [decodeWord, encode, decodeClass8]

theorem op8XY2 (x y : Reg) : Statement (.op8XY2 x y) := by
  intro _
  simp [decodeWord, encode, decodeClass8]

theorem op8XY3 (x y : Reg) : Statement (.op8XY3 x y) := by
  intro _
  simp [decodeWord, encode, decodeClass8]

theorem op8XY4 (x y : Reg) : Statement (.op8XY4 x y) := by
  intro _
  simp [decodeWord, encode, decodeClass8]

theorem op8XY5 (x y : Reg) : Statement (.op8XY5 x y) := by
  intro _
  simp [decodeWord, encode, decodeClass8]

theorem op8XY6 (x y : Reg) : Statement (.op8XY6 x y) := by
  intro _
  simp [decodeWord, encode, decodeClass8]

theorem op8XY7 (x y : Reg) : Statement (.op8XY7 x y) := by
  intro _
  simp [decodeWord, encode, decodeClass8]

theorem op8XYE (x y : Reg) : Statement (.op8XYE x y) := by
  intro _
  simp [decodeWord, encode, decodeClass8]

theorem op9XY0 (x y : Reg) : Statement (.op9XY0 x y) := by
  intro _
  simp [decodeWord, encode]

theorem opANNN (nnn : Addr12) : Statement (.opANNN nnn) := by
  intro _
  simp [decodeWord, encode]

theorem opBNNN (nnn : Addr12) : Statement (.opBNNN nnn) := by
  intro _
  simp [decodeWord, encode]

theorem opCXNN (x : Reg) (nn : Byte) : Statement (.opCXNN x nn) := by
  intro _
  simp [decodeWord, encode]

theorem opDXYN (x y : Reg) (n : Nibble) : Statement (.opDXYN x y n) := by
  intro h
  simp_all [decodeWord, encode, wellFormed, decodeClassD]

theorem opDXY0 (x y : Reg) : Statement (.opDXY0 x y) := by
  intro _
  simp [decodeWord, encode, decodeClassD]

theorem opEX9E (x : Reg) : Statement (.opEX9E x) := by
  intro _
  simp [decodeWord, encode, decodeClassE]

theorem opEXA1 (x : Reg) : Statement (.opEXA1 x) := by
  intro _
  simp [decodeWord, encode, decodeClassE]

theorem opFX07 (x : Reg) : Statement (.opFX07 x) := by
  intro _
  simp [decodeWord, encode, decodeClassF]

theorem opFX0A (x : Reg) : Statement (.opFX0A x) := by
  intro _
  simp [decodeWord, encode, decodeClassF]

theorem opFX15 (x : Reg) : Statement (.opFX15 x) := by
  intro _
  simp [decodeWord, encode, decodeClassF]

theorem opFX18 (x : Reg) : Statement (.opFX18 x) := by
  intro _
  simp [decodeWord, encode, decodeClassF]

theorem opFX1E (x : Reg) : Statement (.opFX1E x) := by
  intro _
  simp [decodeWord, encode, decodeClassF]

theorem opFX29 (x : Reg) : Statement (.opFX29 x) := by
  intro _
  simp [decodeWord, encode, decodeClassF]

theorem opFX30 (x : Reg) : Statement (.opFX30 x) := by
  intro _
  simp [decodeWord, encode, decodeClassF]

theorem opFX33 (x : Reg) : Statement (.opFX33 x) := by
  intro _
  simp [decodeWord, encode, decodeClassF]

theorem opFX55 (x : Reg) : Statement (.opFX55 x) := by
  intro _
  simp [decodeWord, encode, decodeClassF]

theorem opFX65 (x : Reg) : Statement (.opFX65 x) := by
  intro _
  simp [decodeWord, encode, decodeClassF]

theorem opFX75 (x : Reg) : Statement (.opFX75 x) := by
  intro _
  simp [decodeWord, encode, decodeClassF]

theorem opFX85 (x : Reg) : Statement (.opFX85 x) := by
  intro _
  simp [decodeWord, encode, decodeClassF]

end Sys2Proof.Laws.Encoding
end

