-- ==== Sys2Proof/Tests/Slice0.lean ====
section
/-! SUPPORT. Tests of the model: decoding of words written out from the spec, the spec's test vectors (`spec/95_test_vectors.md`), and a witness for the hypotheses of each statement. -/

namespace Sys2Proof.Tests

open Sys2Proof Sys2Proof.Machine Sys2Proof.Safety

-- Many kernel evaluations at once each hold a thread; one after the other they take no longer.
set_option Elab.async false

/-! ## Helpers -/

/-- All quirks false, as the vectors say unless they list one. -/
def noQuirks : Quirks := ⟨false, false, false, false, false, false⟩

/-- The start of the vectors: the state after Reset. -/
def base : State := { State.reset with quirks := noQuirks }

/-- The start of the high-res vectors. -/
def baseHires : State := enterMode true base

/-- `base` with other quirks. -/
def withQuirks (q : Quirks) (s : State) : State := { s with quirks := q }

/-- Some pixels turned on. -/
def on (pixels : List (Nat × Nat)) (s : State) : State :=
  { s with pix := pixels.foldl (fun p rc => p.set (pixelIndex s.hires rc.1 rc.2) true) s.pix }

/-- One Step on the word placed at `pc`, and a check of the state it answers. -/
def after (word : Nat) (s : State) (check : State → Bool) : Bool :=
  match step (s.withFetchWord 16 word) with
  | .next t => check t
  | .fault _ => false
  | .refused _ => false

/-- The next state of a Step. -/
def stepped (s : State) : State :=
  match step s with
  | .next t => t
  | .fault _ => s
  | .refused _ => s

/-- The next state of an instruction. -/
def ran (i : Instr) (s : State) : State :=
  match exec i s with
  | .next t => t
  | .fault _ => s
  | .refused _ => s

/-! ## WellFormed: the one check refuses an ill-formed term -/

theorem test_wellFormed_refuses_dxyn_zero : wellFormed (.opDXYN 1 2 0) = false := by decide

theorem test_wellFormed_accepts : wellFormed (.opDXYN 1 2 1) = true ∧ wellFormed (.opDXY0 1 2) = true := by decide

/-! ## Decoding: one word for each constructor, its bits written out from the spec's encoding (R92, R95) -/

theorem test_decode_display :
    decodeWord false 0b0000000011100000#16 = .ok .op00E0 ∧
    decodeWord false 0b0000000011001010#16 = .ok (.op00CN 10) ∧
    decodeWord false 0b0000000011111011#16 = .ok .op00FB ∧
    decodeWord false 0b0000000011111100#16 = .ok .op00FC ∧
    decodeWord false 0b0000000011111110#16 = .ok .op00FE ∧
    decodeWord false 0b0000000011111111#16 = .ok .op00FF ∧
    decodeWord false 0b1101000100100101#16 = .ok (.opDXYN 1 2 5) ∧
    decodeWord true 0b1101000100100000#16 = .ok (.opDXY0 1 2) := by decide

theorem test_decode_control :
    decodeWord false 0b0000000011101110#16 = .ok .op00EE ∧
    decodeWord false 0b0000000011111101#16 = .ok .op00FD ∧
    decodeWord false 0b0001001000110100#16 = .ok (.op1NNN 0x234) ∧
    decodeWord false 0b0010001011110000#16 = .ok (.op2NNN 0x2F0) ∧
    decodeWord false 0b0011000100101010#16 = .ok (.op3XNN 1 0x2A) ∧
    decodeWord false 0b0100101000000101#16 = .ok (.op4XNN 10 5) ∧
    decodeWord false 0b0101000100100000#16 = .ok (.op5XY0 1 2) ∧
    decodeWord false 0b1001010010000000#16 = .ok (.op9XY0 4 8) ∧
    decodeWord false 0b1011001100000100#16 = .ok (.opBNNN 0x304) := by decide

theorem test_decode_alu :
    decodeWord false 0b0110101000101111#16 = .ok (.op6XNN 0xA 0x2F) ∧
    decodeWord false 0b0111001100000001#16 = .ok (.op7XNN 3 1) ∧
    decodeWord false 0b1000000100100000#16 = .ok (.op8XY0 1 2) ∧
    decodeWord false 0b1000000100100001#16 = .ok (.op8XY1 1 2) ∧
    decodeWord false 0b1000000100100010#16 = .ok (.op8XY2 1 2) ∧
    decodeWord false 0b1000000100100011#16 = .ok (.op8XY3 1 2) ∧
    decodeWord false 0b1000000100100100#16 = .ok (.op8XY4 1 2) ∧
    decodeWord false 0b1000000100100101#16 = .ok (.op8XY5 1 2) ∧
    decodeWord false 0b1000000100100110#16 = .ok (.op8XY6 1 2) ∧
    decodeWord false 0b1000000100100111#16 = .ok (.op8XY7 1 2) ∧
    decodeWord false 0b1000000100101110#16 = .ok (.op8XYE 1 2) ∧
    decodeWord false 0b1100001100001111#16 = .ok (.opCXNN 3 0x0F) := by decide

theorem test_decode_index_memory :
    decodeWord false 0b1010001100000000#16 = .ok (.opANNN 0x300) ∧
    decodeWord false 0b1111001000011110#16 = .ok (.opFX1E 2) ∧
    decodeWord false 0b1111001000101001#16 = .ok (.opFX29 2) ∧
    decodeWord false 0b1111001000110000#16 = .ok (.opFX30 2) ∧
    decodeWord false 0b1111001000110011#16 = .ok (.opFX33 2) ∧
    decodeWord false 0b1111001001010101#16 = .ok (.opFX55 2) ∧
    decodeWord false 0b1111001001100101#16 = .ok (.opFX65 2) ∧
    decodeWord false 0b1111001001110101#16 = .ok (.opFX75 2) ∧
    decodeWord false 0b1111001010000101#16 = .ok (.opFX85 2) := by decide

theorem test_decode_keys_timers :
    decodeWord false 0b1110000110011110#16 = .ok (.opEX9E 1) ∧
    decodeWord false 0b1110000110100001#16 = .ok (.opEXA1 1) ∧
    decodeWord false 0b1111001100000111#16 = .ok (.opFX07 3) ∧
    decodeWord false 0b1111001100001010#16 = .ok (.opFX0A 3) ∧
    decodeWord false 0b1111001100010101#16 = .ok (.opFX15 3) ∧
    decodeWord false 0b1111001100011000#16 = .ok (.opFX18 3) := by decide

/-- B1.5 to B1.10 and A9: illegal words, DXY0 in low-res among them. -/
theorem test_decode_illegal :
    ([0x0000, 0x00E1, 0x0123, 0x00FA, 0x00D0, 0x00B5, 0x8128, 0x812F, 0x812D, 0x9121, 0x5001,
      0xE19F, 0xE100, 0xF100, 0xF256, 0xFFFF, 0xD120].all fun w =>
      decide (decodeWord false (BitVec.ofNat 16 w) = .error (.invalidOpcode (BitVec.ofNat 16 w)))) = true := by decide

/-- A list too short for an instruction word is refused by name. -/
theorem test_decode_truncated : decode false [0x60] = .error .truncated ∧ decode false [] = .error .truncated := by decide

/-- The table's numbering: one 16-bit word, bit 0 its least significant bit. -/
theorem test_decodeTableWord : decodeTableWord 16 0x6A2F = some (.op6XNN 0xA 0x2F) ∧
    decodeTableWord 16 0xD120 = some (.opDXY0 1 2) ∧ decodeTableWord 16 0x5001 = none := by decide

/-! ## Step and outcomes -/

/-- B1.1: the byte at the lower address is the high byte. -/
theorem test_fetch_is_big_endian :
    fetch { base with mem := memWriteAll [] 0x200 [0x12, 0x34] } = some 0x1234#16 := by decide +kernel

/-- B1.4: an odd `pc` is legal. -/
theorem test_odd_pc : after 0x6109 (setPc 0x201 base) (fun t => getV t 1 == 9 && t.pc == 0x203) = true := by
  decide +kernel

/-- B1.2: the last instruction of memory leaves `pc` at 0x1000, and the next fetch faults there. -/
theorem test_end_of_memory :
    after 0x6007 (setPc 0xFFE base) (fun t => t.pc == 0x1000 && (stepped t).outcome == .indexOutOfRange
      && (stepped t).pc == 0x1000) = true := by decide +kernel

/-- A9: the word is reported whole and `pc` has advanced. -/
theorem test_invalid_opcode :
    after 0x5001 base (fun t => t.outcome == .invalidOpcode 0x5001 && t.pc == 0x202) = true := by decide +kernel

/-! ## Control flow (B2) -/

/-- B2.4. -/
theorem test_00EE : after 0x00EE { base with stack := [0x111, 0xABC] }
    (fun t => t.pc == 0xABC && t.sp == 1 && t.outcome == .ok) = true := by decide +kernel

/-- B2.3. -/
theorem test_00EE_empty : after 0x00EE base
    (fun t => t.outcome == .stackUnderflow && t.pc == 0x202 && t.sp == 0) = true := by decide +kernel

/-- B2.17. -/
theorem test_00FD : after 0x00FD base (fun t => t.outcome == .exit && t.pc == 0x202) = true := by decide +kernel

/-- B2.2. -/
theorem test_1NNN : after 0x1FFF base
    (fun t => t.pc == 0xFFF && (stepped t).outcome == .indexOutOfRange) = true := by decide +kernel

/-- B2.5. -/
theorem test_2NNN : after 0x2400 { base with pc := 0x2F0, stack := List.replicate 15 0x202 }
    (fun t => t.stack[15]? == some 0x2F2 && t.sp == 16 && t.pc == 0x400) = true := by decide +kernel

/-- B2.6. -/
theorem test_2NNN_full : after 0x2400 { base with pc := 0x2F0, stack := List.replicate 16 0x202 }
    (fun t => t.outcome == .stackOverflow && t.sp == 16 && t.pc == 0x2F2) = true := by decide +kernel

/-- B2.7, B2.8. -/
theorem test_3XNN : after 0x312A (setV 1 0x2A base) (fun t => t.pc == 0x204) = true ∧
    after 0x312A (setV 1 0x2B base) (fun t => t.pc == 0x202) = true := by decide +kernel

/-- B2.9, B2.10. -/
theorem test_4XNN : after 0x412A (setV 1 0x2A base) (fun t => t.pc == 0x202) = true ∧
    after 0x412A (setV 1 0x2B base) (fun t => t.pc == 0x204) = true := by decide +kernel

/-- B2.11, B2.13. -/
theorem test_5XY0 : after 0x5440 (setV 4 9 base) (fun t => t.pc == 0x204) = true ∧
    after 0x5120 (setV 1 1 (setV 2 2 base)) (fun t => t.pc == 0x202) = true := by decide +kernel

/-- B2.12, B2.13. -/
theorem test_9XY0 : after 0x9440 (setV 4 9 base) (fun t => t.pc == 0x202) = true ∧
    after 0x9120 (setV 1 1 (setV 2 2 base)) (fun t => t.pc == 0x204) = true := by decide +kernel

/-- B2.16. -/
theorem test_BNNN : after 0xB210 (setV 0 2 (setV 2 6 base)) (fun t => t.pc == 0x212) = true ∧
    after 0xB210 (withQuirks { noQuirks with jump := true } (setV 0 2 (setV 2 6 base))) (fun t => t.pc == 0x216) = true := by
  decide +kernel

/-- B2.15: the sum is not reduced. -/
theorem test_BNNN_beyond_memory : after 0xBFFF (setV 0 0xFF base) (fun t => t.pc == 0x10FE) = true := by decide +kernel

/-! ## Loads and ALU (A1 to A5, B3) -/

/-- A1. -/
theorem test_6XNN : after 0x6A2F base (fun t => getV t 10 == 0x2F) = true := by decide +kernel

/-- A2. -/
theorem test_7XNN : after 0x7301 (setV 3 0xFF (setVF 1 base)) (fun t => getV t 3 == 0 && getV t 15 == 1) = true ∧
    after 0x7F01 (setVF 0xFF base) (fun t => getV t 15 == 0) = true := by decide +kernel

/-- B3.3. -/
theorem test_8XY0 : after 0x8120 (setV 2 0x7B base) (fun t => getV t 1 == 0x7B && getV t 2 == 0x7B) = true := by
  decide +kernel

/-- B3.4. -/
theorem test_8XY1 : after 0x8121 (setV 1 0xF0 (setV 2 0x0F (setVF 1 base)))
    (fun t => getV t 1 == 0xFF && getV t 15 == 1) = true := by decide +kernel

/-- B3.7: the flag write is last. -/
theorem test_8XY1_logic : after 0x8F21 (withQuirks { noQuirks with logic := true } (setV 2 3 (setVF 0x0C base)))
    (fun t => getV t 15 == 0) = true := by decide +kernel

/-- B3.5. -/
theorem test_8XY2 : after 0x8122 (withQuirks { noQuirks with logic := true } (setV 1 0xF0 (setV 2 0x3C (setVF 1 base))))
    (fun t => getV t 1 == 0x30 && getV t 15 == 0) = true := by decide +kernel

/-- B3.6. -/
theorem test_8XY3 : after 0x8123 (withQuirks { noQuirks with logic := true } (setV 1 0xF0 (setV 2 0x3C (setVF 1 base))))
    (fun t => getV t 1 == 0xCC && getV t 15 == 0) = true := by decide +kernel

/-- A3. -/
theorem test_8XY4 : after 0x8124 (setV 1 0xFF (setV 2 1 base)) (fun t => getV t 1 == 0 && getV t 15 == 1) = true ∧
    after 0x8124 (setV 1 1 (setV 2 1 (setVF 1 base))) (fun t => getV t 1 == 2 && getV t 15 == 0) = true := by
  decide +kernel

/-- B3.10, B3.11: VF as the destination, and as the source. -/
theorem test_8XY4_vf : after 0x8F14 (setV 1 0x20 (setVF 0x10 base)) (fun t => getV t 15 == 0) = true ∧
    after 0x81F4 (setV 1 1 (setVF 3 base)) (fun t => getV t 1 == 4 && getV t 15 == 0) = true := by decide +kernel

/-- A4, B3.12. -/
theorem test_8XY5 : after 0x8125 (setV 1 1 (setV 2 2 (setVF 1 base))) (fun t => getV t 1 == 0xFF && getV t 15 == 0) = true ∧
    after 0x8125 (setV 1 7 (setV 2 7 base)) (fun t => getV t 1 == 0 && getV t 15 == 1) = true := by decide +kernel

/-- A5. -/
theorem test_8XY6 : after 0x8126 (setV 2 3 base) (fun t => getV t 1 == 1 && getV t 2 == 3 && getV t 15 == 1) = true ∧
    after 0x8126 (withQuirks { noQuirks with shift := true } (setV 2 3 base))
      (fun t => getV t 1 == 0 && getV t 2 == 3 && getV t 15 == 0) = true := by decide +kernel

/-- B3.20, B3.22: VF as both, and as the source. -/
theorem test_8XY6_vf : after 0x8FF6 (setVF 3 base) (fun t => getV t 15 == 1) = true ∧
    after 0x81F6 (setV 1 0x80 (setVF 5 base)) (fun t => getV t 1 == 2 && getV t 15 == 1) = true := by decide +kernel

/-- B3.15, B3.16. -/
theorem test_8XY7 : after 0x8127 (setV 1 5 (setV 2 3 base)) (fun t => getV t 1 == 0xFE && getV t 15 == 0) = true ∧
    after 0x8127 (setV 1 3 (setV 2 5 base)) (fun t => getV t 1 == 2 && getV t 15 == 1) = true := by decide +kernel

/-- B3.19. -/
theorem test_8XYE : after 0x812E (setV 1 0x81 (setV 2 0x40 base)) (fun t => getV t 1 == 0x80 && getV t 15 == 0) = true ∧
    after 0x812E (withQuirks { noQuirks with shift := true } (setV 1 0x81 (setV 2 0x40 base)))
      (fun t => getV t 1 == 2 && getV t 15 == 1) = true := by decide +kernel

/-- B3.21. -/
theorem test_8XYE_vf : after 0x8FFE (setVF 2 base) (fun t => getV t 15 == 0) = true := by decide +kernel

/-- B3.24, in its certain part: a masked byte with mask 0 is 0, and one sample is taken. -/
theorem test_CXNN : after 0xC300 (setV 3 0x55 base) (fun t => t.draws == 1 && t.pc == 0x202) = true := by decide +kernel

/-! ## Index register and memory (B4) -/

/-- B4.1. -/
theorem test_ANNN : after 0xAFFF base (fun t => t.i == 0x0FFF) = true := by decide +kernel

/-- B4.2, B4.3. -/
theorem test_FX1E : after 0xF11E (setV 1 1 (setI 0x0FFF base)) (fun t => t.i == 0x1000 && t.outcome == .ok) = true ∧
    after 0xF11E (setV 1 0xFE (setI 0xFF01 base)) (fun t => t.i == 0xFFFF && t.outcome == .ok) = true := by decide +kernel

/-- B4.4. -/
theorem test_FX1E_overflow : after 0xF11E (setV 1 0xFF (setI 0xFF01 base))
    (fun t => t.outcome == .indexOutOfRange && t.i == 0xFF01 && t.pc == 0x202) = true := by decide +kernel

/-- B4.5, B4.6. -/
theorem test_FX29 : after 0xF229 (setV 2 0x0F base) (fun t => t.i == 0x004B) = true ∧
    after 0xF229 (setV 2 0xFF base) (fun t => t.i == 0x04FB) = true := by decide +kernel

/-- B4.7. -/
theorem test_FX30 : after 0xF230 (setV 2 0x09 base) (fun t => t.i == 0x007D) = true ∧
    after 0xF230 (setV 2 0xFF base) (fun t => t.i == 0x054B) = true := by decide +kernel

/-- B4.10. -/
theorem test_FX33 : after 0xF033 (setV 0 0x7B (setI 0xFFD base)) (fun t =>
    readByte t 0xFFD == 1 && readByte t 0xFFE == 2 && readByte t 0xFFF == 3 && t.outcome == .ok) = true := by
  decide +kernel

/-- B4.11. -/
theorem test_FX33_range : after 0xF033 (setV 0 0x7B (setI 0xFFE base)) (fun t =>
    t.outcome == .indexOutOfRange && readByte t 0xFFE == 0 && t.pc == 0x202) = true := by decide +kernel

/-- B4.12. -/
theorem test_FX55 : after 0xF255 (setV 0 0x11 (setV 1 0x22 (setV 2 0x33 (setV 3 0x44 (setI 0x400 base))))) (fun t =>
    readByte t 0x400 == 0x11 && readByte t 0x402 == 0x33 && readByte t 0x403 == 0 && t.i == 0x403) = true ∧
    after 0xF255 (withQuirks { noQuirks with memoryIncrementByX := true } (setI 0x400 base)) (fun t => t.i == 0x402) = true ∧
    after 0xF255 (withQuirks { noQuirks with memoryIncrementByX := true, memoryLeaveIUnchanged := true }
      (setI 0x400 base)) (fun t => t.i == 0x400) = true := by decide +kernel

/-- B4.14, B4.15: the last legal `I` for `X = 15`. -/
theorem test_FX55_range : after 0xFF55 (setI 0xFF1 base) (fun t => t.outcome == .indexOutOfRange && t.i == 0xFF1) = true ∧
    after 0xFF55 (setVF 7 (setI 0xFF0 base)) (fun t => readByte t 0xFFF == 7 && t.i == 0x1000) = true := by decide +kernel

/-- B4.16. -/
theorem test_FX65 : after 0xF265 (writeBytes 0x400 [9, 8, 7, 6] (setI 0x400 base)) (fun t =>
    getV t 0 == 9 && getV t 1 == 8 && getV t 2 == 7 && getV t 3 == 0 && t.i == 0x403) = true := by decide +kernel

/-- B4.18. -/
theorem test_FX65_range : after 0xF065 (setV 0 0x5A (setI 0x1000 base))
    (fun t => t.outcome == .indexOutOfRange && getV t 0 == 0x5A) = true := by decide +kernel

/-- B4.19. -/
theorem test_FX75 : after 0xF175 (setV 0 0xAA (setV 1 0xBB { base with rpl := base.rpl.set 2 0x55 }))
    (fun t => getRpl t 0 == 0xAA && getRpl t 1 == 0xBB && getRpl t 2 == 0x55) = true := by decide +kernel

/-- B4.20. -/
theorem test_FX85 : after 0xFF85 { base with rpl := Vector.ofFn fun k => BitVec.ofNat 8 (k.val + 1) }
    (fun t => getV t 0 == 1 && getV t 7 == 8 && getV t 15 == 16) = true := by decide +kernel

/-! ## Display (B5) -/

/-- B5.1. -/
theorem test_00E0 : after 0x00E0 (on [(0, 0), (31, 63)] base)
    (fun t => t.pix.count true == 0 && t.pix.length == 2048 && t.hires == false) = true := by decide +kernel

/-- B5.2, B5.4. -/
theorem test_00CN : after 0x00C3 (on [(30, 5)] base) (fun t => pixel t 1 5 && t.pix.count true == 1) = true ∧
    after 0x00C1 (on [(63, 127)] baseHires) (fun t => pixel t 0 127 && t.pix.count true == 1) = true := by decide +kernel

/-- B1.11. -/
theorem test_00C0 : after 0x00C0 (on [(30, 5)] base) (fun t => pixel t 30 5 && t.pix.count true == 1) = true := by
  decide +kernel

/-- B5.5, B5.6. -/
theorem test_00FB : after 0x00FB (on [(0, 62)] base) (fun t => pixel t 1 2 && t.pix.count true == 1) = true ∧
    after 0x00FB (on [(31, 63)] base) (fun t => pixel t 0 3 && t.pix.count true == 1) = true := by decide +kernel

/-- B5.7, B5.8. -/
theorem test_00FC : after 0x00FC (on [(0, 1)] base) (fun t => pixel t 31 61 && t.pix.count true == 1) = true ∧
    after 0x00FC (on [(5, 10)] base) (fun t => pixel t 5 6 && t.pix.count true == 1) = true := by decide +kernel

/-- B5.10, B5.13. -/
theorem test_00FE : after 0x00FE (on [(3, 4)] base) (fun t => pixel t 3 4 && t.hires == false) = true ∧
    after 0x00FE (on [(3, 4)] baseHires) (fun t => t.pix.count true == 0 && t.pix.length == 2048 && !t.hires) = true := by
  decide +kernel

/-- B5.11, B5.12. -/
theorem test_00FF : after 0x00FF (on [(3, 4)] base) (fun t => t.pix.count true == 0 && t.pix.length == 8192 && t.hires) = true ∧
    after 0x00FF (on [(3, 4)] baseHires) (fun t => pixel t 3 4 && t.hires) = true := by decide +kernel

/-- The worked example of R208: the corner sprite, clipped and wrapped. -/
theorem test_DXYN_corner :
    after 0xD012 (setV 0 62 (setV 1 31 (writeBytes 0x300 [0xE0, 0x80] (setI 0x300 base)))) (fun t =>
      pixel t 31 62 && pixel t 31 63 && t.pix.count true == 2 && getV t 15 == 0) = true ∧
    after 0xD012 (withQuirks { noQuirks with wrap := true } (setV 0 62 (setV 1 31 (writeBytes 0x300 [0xE0, 0x80]
      (setI 0x300 base))))) (fun t => pixel t 31 62 && pixel t 31 63 && pixel t 31 0 && pixel t 0 62 &&
        t.pix.count true == 4 && getV t 15 == 0) = true := by decide +kernel

/-- B5.18, B5.23, B5.24: a collision, a range fault although rows would be clipped, and VF as both coordinates. -/
theorem test_DXYN_collision :
    after 0xD011 (writeBytes 0x300 [0xC0] (setI 0x300 (on [(0, 1)] base))) (fun t =>
      pixel t 0 0 && !pixel t 0 1 && getV t 15 == 1) = true ∧
    after 0xD013 (setV 1 31 (setI 0xFFE base)) (fun t => t.outcome == .indexOutOfRange) = true ∧
    after 0xDFF1 (setVF 5 (writeBytes 0x300 [0x80] (setI 0x300 base))) (fun t =>
      pixel t 5 5 && t.pix.count true == 1 && getV t 15 == 0) = true := by decide +kernel

/-- B5.25. -/
theorem test_DXY0 : after 0xD010 (writeBytes 0x300 [0x80, 0x01] (setI 0x300 baseHires)) (fun t =>
    pixel t 0 0 && pixel t 0 15 && t.pix.count true == 2 && getV t 15 == 0) = true := by decide +kernel

/-- B5.27, B1.10: the range test, and low-res, where the word is illegal (written to memory by hand, since
`withFetchWord` would switch the mode). -/
theorem test_DXY0_faults : after 0xD010 (setI 0xFE1 baseHires) (fun t => t.outcome == .indexOutOfRange) = true ∧
    after 0xD010 (setI 0xFE0 baseHires) (fun t => t.outcome == .ok) = true ∧
    (stepped (writeBytes 0x200 [0xD1, 0x20] base)).outcome = .invalidOpcode 0xD120 := by decide +kernel

/-! ## Keys and timers (B6) -/

/-- B6.1, B6.2. -/
theorem test_EX9E : after 0xE19E (keyEvent 10 true (setV 1 10 base)) (fun t => t.pc == 0x204) = true ∧
    after 0xE19E (setV 1 10 base) (fun t => t.pc == 0x202) = true := by decide +kernel

/-- B6.3, B6.4. -/
theorem test_EXA1 : after 0xE1A1 (keyEvent 10 true (setV 1 10 base)) (fun t => t.pc == 0x202) = true ∧
    after 0xE1A1 (setV 1 10 base) (fun t => t.pc == 0x204) = true := by decide +kernel

/-- B6.5. -/
theorem test_key_index_above_15 : after 0xE19E (setV 1 0x10 base) (fun t =>
    t.outcome == .indexOutOfRange && t.pc == 0x202) = true ∧ after 0xE1A1 (setV 1 0x10 base) (fun t =>
    t.outcome == .indexOutOfRange && t.pc == 0x202) = true := by decide +kernel

/-- B6.6. -/
theorem test_FX07 : after 0xF307 (setDt 0x2C base) (fun t => getV t 3 == 0x2C) = true := by decide +kernel

/-- B6.7. -/
theorem test_FX15 : after 0xF315 (setV 3 0x3C base) (fun t => t.dt == 0x3C) = true := by decide +kernel

/-- B6.8, B6.9. -/
theorem test_FX18 : after 0xF318 (setV 3 5 base) (fun t => t.st == 5 && soundLevel t) = true ∧
    after 0xF318 (setSt 9 base) (fun t => t.st == 0 && !soundLevel t) = true := by decide +kernel

/-- B6.14, B6.15. -/
theorem test_FX0A : after 0xF30A base (fun t => t.pc == 0x200 && !t.wait && t.outcome == .ok) = true ∧
    after 0xF30A (keyEvent 7 true (keyEvent 2 true base)) (fun t => getV t 3 == 2 && t.wait && t.pc == 0x200) = true := by
  decide +kernel

/-- B6.16, B6.17. -/
theorem test_FX0A_session :
    after 0xF30A (setWait true (setV 3 2 (keyEvent 7 true base))) (fun t => t.pc == 0x200 && getV t 3 == 2 && t.wait) = true ∧
    after 0xF30A (setWait true base) (fun t => !t.wait && t.pc == 0x202) = true := by decide +kernel

/-- B6.10, B6.11. -/
theorem test_tick : (tick (setDt 2 (setSt 1 base))).dt = 1 ∧ (tick (setDt 2 (setSt 1 base))).st = 0 ∧
    (tick base).dt = 0 ∧ (tick base).st = 0 := by decide +kernel

/-- The codes of R250. -/
theorem test_outcome_codes : [StepOutcome.ok, .invalidOpcode 0, .stackOverflow, .stackUnderflow, .indexOutOfRange,
    .exit].map outcomeCode = [0, 1, 2, 3, 4, 5] := by decide

/-- The memory form refuses a listed zero, a repeated address and an address beyond 4095. -/
theorem test_memory_form : Memory.wf [(1, 0)] = false ∧ Memory.wf [(1, 2), (1, 3)] = false ∧
    Memory.wf [(4096, 1)] = false ∧ Memory.wf [(0, 1), (4095, 1)] = true := by decide

/-! ## Witnesses: a state and operands that meet the hypotheses of each statement, each clause at a boundary -/

/-- A state at every bound of the invariant. -/
def edge : State :=
  { baseHires with mem := [(0, 1), (4095, 1)], pc := 0x10FE, stack := List.replicate 16 0x1000 }

/-- A sprite of one pixel at the top left corner of an empty screen. -/
def dot : State := writeBytes 0x300 [0x80] (setI 0x300 base)

theorem witness_DecodeOfEncodeGivesBack : wellFormed (.opDXYN 1 2 1) = true ∧ wellFormed (.opDXY0 1 2) = true ∧
    ∀ x y, Instr.opDXYN 1 2 1 ≠ .opDXY0 x y := ⟨rfl, rfl, fun _ _ h => by cases h⟩

theorem witness_EncodeOfDecodeGivesBack : decodeWord false 0x00CF#16 = .ok (.op00CN 15) ∧
    decodeWord true 0xDFF0#16 = .ok (.opDXY0 15 15) := by decide

theorem witness_IllegalWordsAreExactlyTheList :
    [0x00BF, 0x00D0, 0x5001, 0x800D, 0x800F, 0xD120].all (illegalWord false) = true ∧
    [0x00C0, 0x00CF, 0x5000, 0x800E, 0xD12F].all (fun w => !illegalWord false w) = true ∧
    illegalWord true 0xD120 = false := by decide

theorem witness_ModeDecidesOnlyDxy0 : 0xDFFF#16 &&& 0xF00F#16 ≠ 0xD000#16 ∧ 0xDFF0#16 &&& 0xF00F#16 = 0xD000#16 := by
  decide

theorem witness_StepRunsTheDecodedInstruction :
    (setPc 0xFFE (writeBytes 0xFFE [0x6A, 0x2F] base)).pc.toNat ≤ 4094 ∧
    decode false [readByte (writeBytes 0xFFE [0x6A, 0x2F] base) 0xFFE,
      readByte (writeBytes 0xFFE [0x6A, 0x2F] base) 0xFFF] = .ok (.op6XNN 10 0x2F, []) := by decide +kernel

theorem witness_IllegalWordIsReported : (setPc 0xFFE base).pc.toNat ≤ 4094 ∧
    illegalWord base.hires (readByte base 0xFFE ++ readByte base 0xFFF).toNat = true := by decide +kernel

theorem witness_FetchBeyondMemoryChangesNothing : 4094 < (setPc 0xFFF base).pc.toNat := by decide

theorem witness_FaultsArePrecise :
    (step base = .next (stepped base) ∧ isFault (stepped base).outcome = true ∧ base.pc.toNat ≤ 4094) ∧
    (step edge = .next (stepped edge) ∧ isFault (stepped edge).outcome = true ∧ 4094 < edge.pc.toNat) :=
  ⟨⟨rfl, rfl, by decide⟩, ⟨rfl, rfl, by decide⟩⟩

theorem witness_ExitComesOnlyFrom00FD : step (base.withFetchWord 16 0x00FD) = .next (stepped (base.withFetchWord 16 0x00FD)) ∧
    nextInstr (base.withFetchWord 16 0x00FD) = some .op00FD := ⟨rfl, by decide +kernel⟩

theorem witness_FaultsHaveTheirCauses :
    nextInstr (base.withFetchWord 16 0x2300) = some (.op2NNN 0x300) ∧
    16 ≤ State.sp { base with stack := List.replicate 16 0 } ∧
    nextInstr (base.withFetchWord 16 0x00EE) = some .op00EE ∧ base.sp = 0 ∧
    indexFault (setI 0xFFE base) (.opFX33 0) = true ∧ indexFault (setI 0xFFD base) (.opFX33 0) = false := by
  decide +kernel

theorem base_bitmap : base.pix.length = screenLen base.hires :=
  (List.length_replicate : (List.replicate 2048 false).length = 2048)

theorem hires_bitmap : baseHires.pix.length = screenLen baseHires.hires :=
  (List.length_replicate : (List.replicate (screenLen true) false).length = screenLen true)

theorem witness_invariant_of_base : Inv base where
  memory := by decide
  depth := by decide
  bitmap := base_bitmap
  pcBound := by decide
  stackBound := fun _ h => absurd h List.not_mem_nil

theorem witness_invariant_at_its_bounds : Inv edge where
  memory := by decide
  depth := by decide
  bitmap := hires_bitmap
  pcBound := by decide
  stackBound := fun a h => (List.eq_of_mem_replicate h : a = 0x1000) ▸ by decide

theorem witness_StepKeepsTheInvariant : Inv edge ∧ step edge = .next (stepped edge) ∧ step base = .next (stepped base) :=
  ⟨witness_invariant_at_its_bounds, rfl, rfl⟩

/-- A key wait in its session. -/
def waiting : State := setWait true (base.withFetchWord 16 0xF30A)

theorem witness_StepKeepsWaitingAtKeyWait :
    waiting.wait = true ∧ WaitsAtKeyWait waiting ∧ step waiting = .next (stepped waiting) :=
  ⟨rfl, fun _ => ⟨3, by decide +kernel⟩, rfl⟩

theorem witness_EveryScheduleKeepsTheInvariant : Inv base ∧ WaitsAtKeyWait base ∧
    ∃ t, runOps [.keyEvent 3 true, .step, .tick, .step] base = .next t :=
  ⟨witness_invariant_of_base, fun h => absurd h (by decide), _, rfl⟩

theorem witness_InstructionsWriteOnlyTheirSpaces : exec (.opFX55 2) base = .next (ran (.opFX55 2) base) ∧
    exec .op00EE base = .next (ran .op00EE base) := ⟨rfl, rfl⟩

theorem witness_InstructionsWriteOnlyTheirRegisters :
    exec (.op8XY4 1 2) base = .next (ran (.op8XY4 1 2) base) ∧ mayWriteReg base.quirks 14 (.op8XY4 1 2) = false ∧
    mayWriteReg base.quirks 15 (.op8XY1 1 2) = false := ⟨rfl, by decide, by decide⟩

theorem witness_StepLeavesTheInputs :
    nextInstr (base.withFetchWord 16 0xC3FF) = some (.opCXNN 3 0xFF) ∧
    (∀ x nn, nextInstr (base.withFetchWord 16 0x63FF) ≠ some (.opCXNN x nn)) :=
  ⟨by decide +kernel, fun x nn => by
    have h : nextInstr (base.withFetchWord 16 0x63FF) = some (.op6XNN 3 0xFF) := by decide +kernel
    simp [h]⟩

theorem witness_BootLoadsWhatTheHostBrings : Memory.wf edge.mem = true ∧
    (boot ⟨noQuirks, [(0x000, 5), (0xFFF, 6), (0xFFF, 0)], Vector.replicate 16 1⟩ edge).mem = [(0, 5)] := by
  decide +kernel

theorem witness_SoundLevelFollowsTheSoundTimer :
    soundLevel (setV 3 5 (base.withFetchWord 16 0xF318)) = false ∧
    soundLevel (stepped (setV 3 5 (base.withFetchWord 16 0xF318))) = true ∧ soundLevel (tick (setSt 2 base)) = true := by
  decide +kernel

theorem witness_RunEndsAtExitOnly : (stepped (base.withFetchWord 16 0x00FD)).outcome = .exit ∧
    (stepped base).outcome ≠ .exit := by decide +kernel

theorem witness_ReturnPopsIntoPc : ({ base with stack := [0x206] } : State).stack = [] ++ [0x206] ∧ base.stack = [] :=
  ⟨rfl, rfl⟩

theorem witness_CallPushesPcAndJumps : State.sp { base with stack := List.replicate 15 0x1000 } < 16 ∧ 16 ≤ edge.sp := by
  decide

theorem witness_CallThenReturnRestoresPc : State.sp { base with stack := List.replicate 15 0x1000 } ≤ 15 ∧
    exec (.op2NNN 0x300) { base with stack := List.replicate 15 0x1000 } =
      .next (ran (.op2NNN 0x300) { base with stack := List.replicate 15 0x1000 }) := ⟨by decide, rfl⟩

theorem witness_SkipsOnImmediate : getV base 3 = 0 ∧ getV base 3 ≠ 1 := by decide

theorem witness_SkipsOnRegisters : (1 : Nibble) ≠ 0 ∧ getV (setV 2 1 base) 0 = getV (setV 2 1 base) 1 ∧
    getV (setV 2 1 base) 0 ≠ getV (setV 2 1 base) 2 := by decide

theorem witness_JumpWithOffset : base.quirks.jump = false ∧
    (withQuirks { noQuirks with jump := true } base).quirks.jump = true := by decide

theorem witness_LogicalOperations : base.quirks.logic = false ∧ (14 : Reg) ≠ regF ∧
    (withQuirks { noQuirks with logic := true } base).quirks.logic = true := by decide

theorem witness_AddSetsCarry : (14 : Reg) ≠ regF ∧
    255 < (getV (setV 1 0xFF (setV 2 1 base)) 1).toNat + (getV (setV 1 0xFF (setV 2 1 base)) 2).toNat ∧
    (getV (setV 1 0xFF base) 1).toNat + (getV (setV 1 0xFF base) 2).toNat ≤ 255 := by decide

theorem witness_SubtractionsSetNotBorrow : (getV base 2).toNat ≤ (getV base 1).toNat ∧
    (getV (setV 2 1 base) 1).toNat < (getV (setV 2 1 base) 2).toNat := by decide

theorem witness_ShiftsByOne : 0x81 = (if base.quirks.shift = true then getV (setV 2 0x81 base) 1
    else getV (setV 2 0x81 base) 2).toNat := by decide

theorem witness_AddToIndex :
    (setI 0xFF01 (setV 1 0xFE base)).i.toNat + (getV (setI 0xFF01 (setV 1 0xFE base)) 1).toNat ≤ 0xFFFF ∧
    0xFFFF < (setI 0xFF01 (setV 1 0xFF base)).i.toNat + (getV (setI 0xFF01 (setV 1 0xFF base)) 1).toNat := by decide

theorem witness_DecimalDigitsAreStored : Memory.wf (setI 0xFFD edge).mem = true ∧ (setI 0xFFD edge).i.toNat + 2 ≤ 4095 := by
  decide

theorem witness_RegistersAreStored : Memory.wf (setI 0xFF0 edge).mem = true ∧
    (setI 0xFF0 edge).i.toNat + (15 : Reg).toNat ≤ 4095 ∧ edge.quirks.memoryLeaveIUnchanged = false ∧
    edge.quirks.memoryIncrementByX = false := by decide

theorem witness_RegistersAreLoaded : (setI 0xFFF edge).i.toNat + (0 : Reg).toNat ≤ 4095 ∧
    (withQuirks { noQuirks with memoryLeaveIUnchanged := true } edge).quirks.memoryLeaveIUnchanged = true ∧
    (withQuirks { noQuirks with memoryIncrementByX := true } edge).quirks.memoryIncrementByX = true := by decide

theorem witness_StoredRegistersComeBack : Memory.wf base.mem = true ∧ (setI 0xFF0 base).i.toNat + (15 : Reg).toNat ≤ 4095 ∧
    exec (.opFX55 15) (setI 0xFF0 base) = .next (ran (.opFX55 15) (setI 0xFF0 base)) ∧
    exec (.opFX75 15) base = .next (ran (.opFX75 15) base) := ⟨by decide, by decide, rfl, rfl⟩

theorem witness_StoresAreSeenByTheNextFetch : Memory.wf base.mem = true ∧ 1 ≤ (1 : Reg).toNat ∧
    (setI 0xFFD base).i.toNat + 2 ≤ 4095 ∧ exec (.opFX33 1) (setI 0xFFD base) = .next (ran (.opFX33 1) (setI 0xFFD base)) ∧
    exec (.opFX55 1) (setI 0xFFE base) = .next (ran (.opFX55 1) (setI 0xFFE base)) :=
  ⟨by decide, by decide, by decide, rfl, rfl⟩

theorem witness_RangeFaultsChangeNothing :
    indexFault (setI 0xFFC base) (.opDXYN 0 1 5) = true ∧ indexFault (setI 0xFFB base) (.opDXYN 0 1 5) = false ∧
    indexFault (setI 0xFE1 baseHires) (.opDXY0 0 1) = true ∧ indexFault (setI 0xFE0 baseHires) (.opDXY0 0 1) = false ∧
    indexFault (setI 0xFF1 base) (.opFX55 15) = true ∧ indexFault (setI 0xFF0 base) (.opFX65 15) = false ∧
    indexFault (setI 0x1000 base) (.opFX65 0) = true ∧
    indexFault (setV 1 0x10 base) (.opEX9E 1) = true ∧ indexFault (setV 1 0x0F base) (.opEXA1 1) = false ∧
    indexFault (setI 0xFF01 (setV 1 0xFF base)) (.opFX1E 1) = true := by decide

theorem witness_ScrollsRotateTheBitmap : base.pix.length = screenLen base.hires ∧
    baseHires.pix.length = screenLen baseHires.hires :=
  ⟨base_bitmap, hires_bitmap⟩

theorem witness_ScrollRightAndLeftAreInverse : base.pix.length = screenLen base.hires ∧
    exec .op00FB base = .next (ran .op00FB base) ∧ exec .op00FC base = .next (ran .op00FC base) :=
  ⟨base_bitmap, rfl, rfl⟩

theorem witness_ModeSwitchErasesTheScreen : base.hires = false ∧ baseHires.hires = true := by decide

theorem witness_SpriteOfEightColumnsIsDrawn : (15 : Nibble) ≠ 0 ∧ base.pix.length = screenLen base.hires ∧
    (setI 0xFF1 base).i.toNat + (15 : Nibble).toNat - 1 ≤ 4095 :=
  ⟨by decide, base_bitmap, by decide⟩

theorem witness_SpriteOfSixteenColumnsIsDrawn : baseHires.hires = true ∧ baseHires.pix.length = 8192 ∧
    (setI 0xFE0 baseHires).i.toNat + 31 ≤ 4095 :=
  ⟨by decide, hires_bitmap, by decide⟩

theorem dot_screen_is_off (row col : Nat) : pixel dot row col = false := by
  have h : dot.pix = List.replicate 2048 false := rfl
  simp only [pixel, h, List.getD, List.getElem?_replicate]
  split <;> rfl

theorem dot_covers_the_corner : Covers8 dot 0 1 1 0 0 :=
  ⟨0, 0, by decide, by decide, by decide +kernel, by unfold LandsOn; decide +kernel⟩

theorem witness_DrawingTwiceRestoresTheBitmap : (0 : Reg) ≠ regF ∧ (1 : Reg) ≠ regF ∧ (1 : Nibble) ≠ 0 ∧
    dot.pix.length = screenLen dot.hires ∧ dot.i.toNat + (1 : Nibble).toNat - 1 ≤ 4095 ∧
    exec (.opDXYN 0 1 1) dot = .next (ran (.opDXYN 0 1 1) dot) ∧
    (∀ row col, row < rows dot.hires → col < cols dot.hires → Covers8 dot 0 1 1 row col → pixel dot row col = false) ∧
    (∃ row col, row < rows dot.hires ∧ col < cols dot.hires ∧ Covers8 dot 0 1 1 row col) :=
  ⟨by decide, by decide, by decide, base_bitmap, by decide, rfl,
   fun row col _ _ _ => dot_screen_is_off row col, 0, 0, by decide, by decide, dot_covers_the_corner⟩

theorem witness_SkipsOnKey : (getV (setV 1 15 base) 1).toNat ≤ 15 ∧ 15 < (getV (setV 1 16 base) 1).toNat := by decide

theorem witness_KeyWaitHasFourCases : (∀ k, k < 16 → keyDown base k = false) ∧ base.wait = false ∧
    (∃ k, k < 16 ∧ keyDown (keyEvent 15 true base) k = true) ∧
    (∀ k, k < 15 → keyDown (keyEvent 15 true base) k = false) ∧ (setWait true base).wait = true :=
  ⟨by decide, by decide, ⟨15, by decide, by decide⟩, by decide, by decide⟩

end Sys2Proof.Tests
end

section
/-! SUPPORT. A property that does not read the outcome output holds after an instruction if it holds of the state the instruction reports. -/

namespace Sys2Proof.Machine

/-- `P` does not read the outcome output (R125). -/
def IgnoresOutcome (P : State → Prop) : Prop := ∀ o s, P (report o s) ↔ P s

variable {P : State → Prop} {s t u : State}

theorem IgnoresOutcome.of_complete (hP : IgnoresOutcome P) (h : complete u = .next t) (hu : P u) : P t :=
  Host.Outcome.next.inj h ▸ (hP .ok u).2 hu

theorem IgnoresOutcome.of_raise {o : StepOutcome} (hP : IgnoresOutcome P) (h : raise o u = .next t) (hu : P u) :
    P t :=
  Host.Outcome.next.inj h ▸ (hP o u).2 hu

/-- An instruction that tests its range first. -/
theorem IgnoresOutcome.of_ite_raise {c : Prop} [Decidable c] {o : StepOutcome} (hP : IgnoresOutcome P)
    (h : (if c then raise o s else complete u) = .next t) (hs : P s) (hu : ¬c → P u) : P t := by
  split at h
  · exact hP.of_raise h hs
  · next hc => exact hP.of_complete h (hu hc)

/-- A draw: only the bitmap, of the same size, and VF differ. -/
theorem IgnoresOutcome.of_drawSprite {n : Nat} {points : List (Nat × Nat)} {x y : Reg} (hP : IgnoresOutcome P)
    (h : drawSprite n points x y s = .next t) (hs : P s)
    (hu : ∀ pix b, pix.length = s.pix.length → P (setVF b (setPix pix s))) : P t := by
  obtain ⟨-, hd⟩ | ⟨-, pix, hit, -, hlen, hd⟩ := drawSprite_eq n points x y s
  · exact hP.of_raise (hd.symm.trans h) hs
  · exact hP.of_complete (u := setVF (flagByte hit) (setPix pix s)) (hd.symm.trans h) (hu pix _ hlen)

/-- DXY0 draws in high-res and raises elsewhere (R97, R209). -/
theorem IgnoresOutcome.of_execDXY0 {x y : Reg} (hP : IgnoresOutcome P) (h : execDXY0 x y s = .next t) (hs : P s)
    (hu : ∀ pix b, pix.length = s.pix.length → P (setVF b (setPix pix s))) : P t := by
  unfold execDXY0 at h
  split at h
  · exact hP.of_drawSprite h hs hu
  · exact hP.of_raise h hs

/-- A return raises, or takes `pc` from a stack entry (R140). -/
theorem IgnoresOutcome.of_exec00EE (hP : IgnoresOutcome P) (h : exec00EE s = .next t) (hs : P s)
    (hu : ∀ a ∈ s.stack, P (setPc a (dropTop s))) : P t := by
  unfold exec00EE at h
  split at h
  · exact hP.of_raise h hs
  · next a htop => exact hP.of_complete h (hu a (topOfStack_some htop).2)

/-- EX9E raises on a key index above 15 or skips (R230). -/
theorem IgnoresOutcome.of_execEX9E {x : Reg} (hP : IgnoresOutcome P) (h : execEX9E x s = .next t) (hs : P s)
    (hu : ∀ taken, P (skipIf taken s)) : P t := by
  unfold execEX9E at h
  split at h
  · exact hP.of_raise h hs
  · exact hP.of_complete h (hu _)

/-- EXA1 raises on a key index above 15 or skips (R231). -/
theorem IgnoresOutcome.of_execEXA1 {x : Reg} (hP : IgnoresOutcome P) (h : execEXA1 x s = .next t) (hs : P s)
    (hu : ∀ taken, P (skipIf taken s)) : P t := by
  unfold execEXA1 at h
  split at h
  · exact hP.of_raise h hs
  · exact hP.of_complete h (hu _)

end Sys2Proof.Machine
end

section
/-! SUPPORT. The invariant of R40 under each operation on the state, under each instruction, and under a Step. -/

namespace Sys2Proof.Safety

open Sys2Proof Sys2Proof.Machine

variable {s t : State}

/-! ## Operations that write no field the invariant reads -/

theorem inv_iff : Inv s ↔ Memory.wf s.mem = true ∧ s.stack.length ≤ 16 ∧ s.pix.length = screenLen s.hires ∧
    s.pc.toNat ≤ 0x10FE ∧ ∀ a ∈ s.stack, a.toNat ≤ 4096 :=
  ⟨fun ⟨memory, depth, bitmap, pcBound, stackBound⟩ => ⟨memory, depth, bitmap, pcBound, stackBound⟩,
    fun ⟨memory, depth, bitmap, pcBound, stackBound⟩ => ⟨memory, depth, bitmap, pcBound, stackBound⟩⟩

/-- `Inv` reads memory, the stack, the bitmap, the mode and `pc`, and no other field. -/
theorem inv_congr (hm : t.mem = s.mem) (hk : t.stack = s.stack) (hx : t.pix = s.pix) (hh : t.hires = s.hires)
    (hp : t.pc = s.pc) : Inv t ↔ Inv s := by
  simp only [inv_iff, hm, hk, hx, hh, hp]

@[simp] theorem inv_report (o : StepOutcome) : Inv (report o s) ↔ Inv s := inv_congr rfl rfl rfl rfl rfl
@[simp] theorem inv_setV (k : Reg) (b : Byte) : Inv (setV k b s) ↔ Inv s := inv_congr rfl rfl rfl rfl rfl
@[simp] theorem inv_setVF (b : Byte) : Inv (setVF b s) ↔ Inv s := inv_setV regF b
@[simp] theorem inv_loadRegsUpTo (x : Reg) (f : Nat → Byte) : Inv (loadRegsUpTo x f s) ↔ Inv s :=
  inv_congr rfl rfl rfl rfl rfl
@[simp] theorem inv_restoreRpl (x : Reg) : Inv (restoreRpl x s) ↔ Inv s := inv_loadRegsUpTo x _
@[simp] theorem inv_saveRpl (x : Reg) : Inv (saveRpl x s) ↔ Inv s := inv_congr rfl rfl rfl rfl rfl
@[simp] theorem inv_setI (w : Word) : Inv (setI w s) ↔ Inv s := inv_congr rfl rfl rfl rfl rfl
@[simp] theorem inv_setDt (b : Byte) : Inv (setDt b s) ↔ Inv s := inv_congr rfl rfl rfl rfl rfl
@[simp] theorem inv_setSt (b : Byte) : Inv (setSt b s) ↔ Inv s := inv_congr rfl rfl rfl rfl rfl
@[simp] theorem inv_setWait (b : Bool) : Inv (setWait b s) ↔ Inv s := inv_congr rfl rfl rfl rfl rfl
@[simp] theorem inv_sampled : Inv (sampled s) ↔ Inv s := inv_congr rfl rfl rfl rfl rfl
@[simp] theorem inv_tick : Inv (tick s) ↔ Inv s := inv_congr rfl rfl rfl rfl rfl
@[simp] theorem inv_keyEvent (k : BitVec 4) (pressed : Bool) : Inv (keyEvent k pressed s) ↔ Inv s :=
  inv_congr rfl rfl rfl rfl rfl

@[simp] theorem inv_setResultAndFlag (x : Reg) (b : Byte) (flag : Bool) :
    Inv (setResultAndFlag x b flag s) ↔ Inv s := by
  simp [setResultAndFlag]

@[simp] theorem inv_setLogicResult (x : Reg) (b : Byte) : Inv (setLogicResult x b s) ↔ Inv s := by
  unfold setLogicResult
  split <;> simp

theorem inv_ignoresOutcome : IgnoresOutcome Inv := fun o _ => inv_report o

/-! ## Operations that write a field the invariant reads -/

theorem inv_setPc {w : Word} (hs : Inv s) (hw : w.toNat ≤ 0x10FE) : Inv (setPc w s) :=
  { hs with pcBound := hw }

theorem inv_setPix {p : List Bool} (hs : Inv s) (hp : p.length = s.pix.length) : Inv (setPix p s) :=
  { hs with bitmap := hp.trans hs.bitmap }

theorem inv_enterMode (hires : Bool) (hs : Inv s) : Inv (enterMode hires s) :=
  { hs with bitmap := blankScreen_length hires }

theorem inv_ensureHires (hs : Inv s) : Inv (ensureHires s) := by
  unfold ensureHires
  split
  · exact hs
  · exact inv_enterMode true hs

theorem inv_writeBytes {a : Nat} {ws : List Byte} (hs : Inv s) (hr : outOfRange a ws.length = false) :
    Inv (writeBytes a ws s) :=
  { hs with memory := writeBytes_wf hr hs.memory }

theorem inv_push {w : Word} (hs : Inv s) (hd : s.sp < 16) (hw : w.toNat ≤ 4096) : Inv (push w s) where
  memory := hs.memory
  depth := by
    simp only [State.sp, push_stack, List.length_append, List.length_singleton] at hd ⊢
    omega
  bitmap := hs.bitmap
  pcBound := hs.pcBound
  stackBound a ha := by
    rcases List.mem_append.1 ha with hold | hnew
    · exact hs.stackBound a hold
    · exact List.mem_singleton.1 hnew ▸ hw

theorem inv_dropTop (hs : Inv s) : Inv (dropTop s) where
  memory := hs.memory
  depth := by
    have hd := hs.depth
    simp only [State.sp, dropTop_stack, List.length_dropLast] at hd ⊢
    omega
  bitmap := hs.bitmap
  pcBound := hs.pcBound
  stackBound a ha := hs.stackBound a (List.mem_of_mem_dropLast ha)

/-- A skip is taken from at most 4096, the advanced `pc` of the last fetch in memory (R23). -/
theorem inv_skipIf (taken : Bool) (hs : Inv s) (hpc : s.pc.toNat ≤ 4096) : Inv (skipIf taken s) := by
  rw [skipIf_eq]
  refine inv_setPc hs ?_
  split
  · simp only [BitVec.toNat_add, BitVec.reduceToNat]
    omega
  · exact hs.pcBound

/-- FX0A's roll-back undoes an advance, so `pc` is at least 2 before it and does not wrap (R233). -/
theorem inv_rollBack (hs : Inv s) (hpc : 2 ≤ s.pc.toNat) : Inv (rollBack s) := by
  have hle : (2 : Word) ≤ s.pc := by simpa [BitVec.le_def] using hpc
  have hb := hs.pcBound
  refine inv_setPc hs ?_
  rw [BitVec.toNat_sub_of_le hle]
  omega

/-! ## The instructions -/

theorem addressOf_toNat (nnn : Addr12) : (addressOf nnn).toNat = nnn.toNat :=
  BitVec.toNat_setWidth_of_le (by decide)

/-- A jump or a call goes to at most `0xFFF`. -/
theorem inv_jumpTo (nnn : Addr12) (hs : Inv s) : Inv (setPc (addressOf nnn) s) := by
  have hn := nnn.isLt
  refine inv_setPc hs ?_
  rw [addressOf_toNat]
  omega

/-- BNNN's sum is at most `0xFFF + 0xFF`, the bound of R40 (c). -/
theorem addressOf_add_toNat_le (nnn : Addr12) (b : Byte) : (addressOf nnn + b.setWidth 16).toNat ≤ 0x10FE := by
  have hn := nnn.isLt
  have hb := b.isLt
  simp only [BitVec.toNat_add, addressOf_toNat, BitVec.toNat_setWidth]
  omega

theorem execFX0A_keeps_inv {x : Reg} (h : execFX0A x s = .next t) (hs : Inv s) (hpc : 2 ≤ s.pc.toNat) : Inv t := by
  unfold execFX0A at h
  split at h
  · exact inv_ignoresOutcome.of_complete h (inv_rollBack hs hpc)
  · exact inv_ignoresOutcome.of_complete h (inv_rollBack (by simpa using hs) hpc)
  · exact inv_ignoresOutcome.of_complete h (inv_rollBack hs hpc)
  · exact inv_ignoresOutcome.of_complete h (by simpa using hs)

/-- R40 for every instruction, where `pc` has been advanced past a fetch within memory (R122). -/
theorem exec_keeps_inv {i : Instr} (h : exec i s = .next t) (hs : Inv s) (hlo : 2 ≤ s.pc.toNat)
    (hhi : s.pc.toNat ≤ 4096) : Inv t := by
  have hP := inv_ignoresOutcome
  have hdraw : ∀ pix b, pix.length = s.pix.length → Inv (setVF b (setPix pix s)) :=
    fun _ _ hlen => (inv_setVF _).2 (inv_setPix hs hlen)
  cases i with
  | op00E0 => exact hP.of_complete h (inv_setPix hs ((blankScreen_length _).trans hs.bitmap.symm))
  | op00CN n | op00FB | op00FC => exact hP.of_complete h (inv_setPix hs (rotatePix_length _ _ _))
  | op00FE =>
    refine hP.of_complete h ?_
    split
    · exact inv_enterMode false hs
    · exact hs
  | op00FF => exact hP.of_complete h (inv_ensureHires hs)
  | op00FD => exact hP.of_raise h hs
  | op00EE =>
    refine hP.of_exec00EE h hs fun a ha => inv_setPc (inv_dropTop hs) ?_
    have ha' := hs.stackBound a ha
    omega
  | op1NNN nnn => exact hP.of_complete h (inv_jumpTo nnn hs)
  | op2NNN nnn =>
    exact hP.of_ite_raise h hs fun hfree => inv_jumpTo nnn (inv_push hs (Nat.not_le.1 hfree) hhi)
  | opBNNN nnn => exact hP.of_complete h (inv_setPc hs (addressOf_add_toNat_le _ _))
  | op3XNN x nn | op4XNN x nn | op5XY0 x y | op9XY0 x y => exact hP.of_complete h (inv_skipIf _ hs hhi)
  | opEX9E x => exact hP.of_execEX9E h hs fun taken => inv_skipIf taken hs hhi
  | opEXA1 x => exact hP.of_execEXA1 h hs fun taken => inv_skipIf taken hs hhi
  | opDXYN x y n => exact hP.of_drawSprite h hs hdraw
  | opDXY0 x y => exact hP.of_execDXY0 h hs hdraw
  | opFX0A x => exact execFX0A_keeps_inv h hs hlo
  | opFX1E x | opFX65 x => exact hP.of_ite_raise h hs fun _ => by simpa using hs
  | opFX33 x => exact hP.of_ite_raise h hs fun hr => inv_writeBytes hs (by simpa using hr)
  | opFX55 x => exact hP.of_ite_raise h hs fun hr => (inv_setI _).2 (inv_writeBytes hs (by simpa using hr))
  | _ => exact hP.of_complete h (by simpa using hs)

/-! ## A Step -/

theorem pc_le_of_fetch {op : Word} (h : fetch s = some op) : s.pc.toNat ≤ 4094 := by
  rw [fetch_eq] at h
  split at h
  · cases h
  · omega

/-- Past a fetch within memory the advance does not wrap (R23). -/
theorem advance_pc_toNat (hpc : s.pc.toNat ≤ 4094) : (advance s).pc.toNat = s.pc.toNat + 2 := by
  simp only [advance_pc, BitVec.toNat_add, BitVec.reduceToNat]
  omega

theorem inv_advance (hs : Inv s) (hpc : s.pc.toNat ≤ 4094) : Inv (advance s) :=
  inv_skipIf true hs (by omega)

/-- R40: a Step keeps the invariant. -/
theorem step_keeps_inv (hs : Inv s) (h : step s = .next t) : Inv t := by
  obtain ⟨-, -, rfl⟩ | ⟨op, e, hf, -, -, rfl⟩ | ⟨op, i, hf, -, -, hx⟩ := step_cases h
  · exact (inv_report _).2 hs
  · exact (inv_report _).2 (inv_advance hs (pc_le_of_fetch hf))
  · have hpc := pc_le_of_fetch hf
    have hadv := advance_pc_toNat hpc
    exact exec_keeps_inv hx (inv_advance hs hpc) (by omega) (by omega)

end Sys2Proof.Safety
end

section
/-! SUPPORT. `WAIT` under each instruction, and the key-wait invariant of R233 under a Step. -/

namespace Sys2Proof.Safety

open Sys2Proof Sys2Proof.Machine

variable {s t : State}

@[simp] theorem skipIf_wait (taken : Bool) : (skipIf taken s).wait = s.wait := by
  rw [skipIf_eq, setPc_wait]

@[simp] theorem setLogicResult_wait (x : Reg) (b : Byte) : (setLogicResult x b s).wait = s.wait := by
  unfold setLogicResult
  split <;> rfl

@[simp] theorem ensureHires_wait : (ensureHires s).wait = s.wait := by
  unfold ensureHires
  split <;> rfl

theorem wait_ignoresOutcome (b : Bool) : IgnoresOutcome fun u => u.wait = b := fun _ _ => Iff.rfl

/-- `WAIT` is FX0A's alone (R28, R76). -/
theorem exec_keeps_wait {i : Instr} (hi : ∀ x, i ≠ .opFX0A x) (h : exec i s = .next t) : t.wait = s.wait := by
  have hP := wait_ignoresOutcome s.wait
  cases i with
  | opFX0A x => exact absurd rfl (hi x)
  | op00FD => exact hP.of_raise h rfl
  | op00FE =>
    refine hP.of_complete h ?_
    split <;> rfl
  | op00FF => exact hP.of_complete h ensureHires_wait
  | op00EE => exact hP.of_exec00EE h rfl fun _ _ => rfl
  | op3XNN x nn | op4XNN x nn | op5XY0 x y | op9XY0 x y => exact hP.of_complete h (skipIf_wait _)
  | op8XY1 x y | op8XY2 x y | op8XY3 x y => exact hP.of_complete h (setLogicResult_wait _ _)
  | opEX9E x => exact hP.of_execEX9E h rfl skipIf_wait
  | opEXA1 x => exact hP.of_execEXA1 h rfl skipIf_wait
  | opDXYN x y n => exact hP.of_drawSprite h rfl fun _ _ _ => rfl
  | opDXY0 x y => exact hP.of_execDXY0 h rfl fun _ _ _ => rfl
  | op2NNN nnn | opFX1E x | opFX33 x | opFX55 x | opFX65 x => exact hP.of_ite_raise h rfl fun _ => rfl
  | _ => exact hP.of_complete h rfl

/-- FX0A leaves `WAIT` true only where it rolls `pc` back (R233 (b), (c)). -/
theorem execFX0A_waiting {x : Reg} (h : execFX0A x s = .next t) (hw : t.wait = true) :
    t.mem = s.mem ∧ t.pc = s.pc - 2 ∧ t.hires = s.hires := by
  unfold execFX0A at h
  split at h <;> cases h
  · exact ⟨rfl, rfl, rfl⟩
  · exact ⟨rfl, rfl, rfl⟩
  · exact ⟨rfl, rfl, rfl⟩
  · cases hw

/-- `WaitsAtKeyWait` reads `WAIT`, memory, `pc` and the mode, and no other field. -/
theorem waitsAtKeyWait_congr (hw : t.wait = s.wait) (hm : t.mem = s.mem) (hp : t.pc = s.pc)
    (hh : t.hires = s.hires) : WaitsAtKeyWait t ↔ WaitsAtKeyWait s := by
  simp only [WaitsAtKeyWait, hw, nextInstr_congr hm hp hh]

theorem waitsAtKeyWait_of_not_wait (hw : s.wait = false) : WaitsAtKeyWait s :=
  fun h => absurd (hw.symm.trans h) Bool.false_ne_true

/-- In a state that meets the invariant `WAIT` is false where the next Step runs no FX0A. -/
theorem WaitsAtKeyWait.wait_eq_false (hs : WaitsAtKeyWait s) (hn : ∀ x, nextInstr s ≠ some (.opFX0A x)) :
    s.wait = false := by
  refine Bool.eq_false_iff.2 fun hw => ?_
  obtain ⟨x, hx⟩ := hs hw
  exact hn x hx

/-- R233: a Step keeps the key-wait invariant. -/
theorem step_keeps_waitsAtKeyWait (hs : WaitsAtKeyWait s) (h : step s = .next t) : WaitsAtKeyWait t := by
  obtain ⟨-, -, rfl⟩ | ⟨op, e, -, -, hn, rfl⟩ | ⟨op, i, -, -, hn, hx⟩ := step_cases h
  · exact (waitsAtKeyWait_congr rfl rfl rfl rfl).2 hs
  · exact waitsAtKeyWait_of_not_wait (hs.wait_eq_false (by simp [hn]))
  · by_cases hi : ∃ x, i = .opFX0A x
    · obtain ⟨x, rfl⟩ := hi
      intro hw
      obtain ⟨hm, hp, hh⟩ := execFX0A_waiting hx hw
      have hpc : t.pc = s.pc := by simpa using hp
      exact ⟨x, (nextInstr_congr (s := s) hm hpc hh).trans hn⟩
    · have hne : ∀ x, i ≠ .opFX0A x := fun x he => hi ⟨x, he⟩
      refine waitsAtKeyWait_of_not_wait ((exec_keeps_wait hne hx).trans (hs.wait_eq_false fun x he => ?_))
      exact hne x (Option.some.inj (hn.symm.trans he))

end Sys2Proof.Safety
end

section
/-! SUPPORT. Both invariants under every operation of the host's, along every schedule, and after Reset with HostLoad. -/

namespace Sys2Proof.Safety

open Sys2Proof Sys2Proof.Machine

/-- What every operation of a run keeps, every schedule keeps, wherever the run ends (R283). -/
theorem runOps_induction {P : State → Prop} (hP : ∀ o s t, P s → perform o s = .next t → P t)
    (ops : List RunOp) {s t : State} (hs : P s) (h : runOps ops s = .next t) : P t := by
  induction ops generalizing s with
  | nil => exact Host.Outcome.next.inj h ▸ hs
  | cons o os ih =>
    unfold runOps at h
    split at h
    · next u hu =>
      have hPu := hP o s u hs hu
      split at h
      · exact Host.Outcome.next.inj h ▸ hPu
      · exact ih hPu h
    · cases h
    · cases h

/-- Both invariants, of R40 and of R233. -/
def MeetsInvariants (s : State) : Prop := Inv s ∧ WaitsAtKeyWait s

theorem perform_keeps_invariants (o : RunOp) (s t : State) (hs : MeetsInvariants s)
    (h : perform o s = .next t) : MeetsInvariants t := by
  obtain ⟨hi, hw⟩ := hs
  cases o with
  | step => exact ⟨step_keeps_inv hi h, step_keeps_waitsAtKeyWait hw h⟩
  | tick =>
    obtain rfl : tick s = t := Host.Outcome.next.inj h
    exact ⟨inv_tick.2 hi, (waitsAtKeyWait_congr rfl rfl rfl rfl).2 hw⟩
  | keyEvent k pressed =>
    obtain rfl : keyEvent k pressed s = t := Host.Outcome.next.inj h
    exact ⟨(inv_keyEvent k pressed).2 hi, (waitsAtKeyWait_congr rfl rfl rfl rfl).2 hw⟩

/-- Reset and HostLoad write every field but memory, whatever the state before (R280, R282). -/
theorem boot_meets_invariants (b : Boot) {s : State} (hm : Memory.wf s.mem = true) :
    MeetsInvariants (boot b s) := by
  have hwf : Memory.wf (boot b s).mem = true := foldl_hostLoad_wf b.bytes _ hm
  obtain ⟨m, hboot⟩ : ∃ m, boot b s = { hostReset s with quirks := b.straps, rpl := b.rpl, mem := m } :=
    foldl_hostLoad b.bytes _
  rw [hboot] at hwf ⊢
  constructor
  case right => exact waitsAtKeyWait_of_not_wait rfl
  case left => exact {
    memory := hwf
    depth := Nat.zero_le 16
    bitmap := List.length_replicate
    pcBound := show (0x200 : Word).toNat ≤ 0x10FE by decide
    stackBound := fun _ ha => absurd ha List.not_mem_nil }

/-- Settles O16, by induction on the schedule. -/
theorem everyScheduleKeepsTheInvariant : Obligations.EveryScheduleKeepsTheInvariant :=
  ⟨fun ops _ _ hi hw h => runOps_induction perform_keeps_invariants ops ⟨hi, hw⟩ h,
    fun b _ hi => boot_meets_invariants b hi.memory⟩

end Sys2Proof.Safety
end

section
/-! SUPPORT. The frame predicate under each operation on the state, and each instruction's frame: the spaces of its row of the table of R76 and the registers of R21. -/

namespace Sys2Proof.Safety

open Sys2Proof Sys2Proof.Machine

variable {cs : List Component} {s t : State}

/-! ## The frame under an operation whose piece of state is listed -/

@[simp] theorem onlyChanges_report_iff {o : StepOutcome} : OnlyChanges cs s (report o t) ↔ OnlyChanges cs s t :=
  forall₂_congr fun c _ => same_report o s t c

theorem onlyChanges_ignoresOutcome : IgnoresOutcome (OnlyChanges cs s) := fun _ _ => onlyChanges_report_iff

@[simp] theorem onlyChanges_setV {k : Reg} {b : Byte} (hv : Component.v ∈ cs) :
    OnlyChanges cs s (setV k b t) ↔ OnlyChanges cs s t :=
  forall₂_congr fun c hc => by
    cases c with
    | v => exact absurd hv hc
    | _ => exact Iff.rfl

@[simp] theorem onlyChanges_setVF {b : Byte} (hv : Component.v ∈ cs) :
    OnlyChanges cs s (setVF b t) ↔ OnlyChanges cs s t := onlyChanges_setV hv

@[simp] theorem onlyChanges_setResultAndFlag {x : Reg} {b : Byte} {flag : Bool} (hv : Component.v ∈ cs) :
    OnlyChanges cs s (setResultAndFlag x b flag t) ↔ OnlyChanges cs s t := by
  simp [setResultAndFlag, hv]

@[simp] theorem onlyChanges_setLogicResult {x : Reg} {b : Byte} (hv : Component.v ∈ cs) :
    OnlyChanges cs s (setLogicResult x b t) ↔ OnlyChanges cs s t := by
  unfold setLogicResult
  split <;> simp [hv]

@[simp] theorem onlyChanges_loadRegsUpTo {x : Reg} {f : Nat → Byte} (hv : Component.v ∈ cs) :
    OnlyChanges cs s (loadRegsUpTo x f t) ↔ OnlyChanges cs s t :=
  forall₂_congr fun c hc => by
    cases c with
    | v => exact absurd hv hc
    | _ => exact Iff.rfl

@[simp] theorem onlyChanges_restoreRpl {x : Reg} (hv : Component.v ∈ cs) :
    OnlyChanges cs s (restoreRpl x t) ↔ OnlyChanges cs s t := onlyChanges_loadRegsUpTo hv

@[simp] theorem onlyChanges_saveRpl {x : Reg} (hr : Component.rpl ∈ cs) :
    OnlyChanges cs s (saveRpl x t) ↔ OnlyChanges cs s t :=
  forall₂_congr fun c hc => by
    cases c with
    | rpl => exact absurd hr hc
    | _ => exact Iff.rfl

@[simp] theorem onlyChanges_setI {w : Word} (hi : Component.i ∈ cs) :
    OnlyChanges cs s (setI w t) ↔ OnlyChanges cs s t :=
  forall₂_congr fun c hc => by
    cases c with
    | i => exact absurd hi hc
    | _ => exact Iff.rfl

@[simp] theorem onlyChanges_setPc {w : Word} (hp : Component.pc ∈ cs) :
    OnlyChanges cs s (setPc w t) ↔ OnlyChanges cs s t :=
  forall₂_congr fun c hc => by
    cases c with
    | pc => exact absurd hp hc
    | _ => exact Iff.rfl

@[simp] theorem onlyChanges_skipIf {taken : Bool} (hp : Component.pc ∈ cs) :
    OnlyChanges cs s (skipIf taken t) ↔ OnlyChanges cs s t := by
  rw [skipIf_eq, onlyChanges_setPc hp]

@[simp] theorem onlyChanges_rollBack (hp : Component.pc ∈ cs) :
    OnlyChanges cs s (rollBack t) ↔ OnlyChanges cs s t := onlyChanges_setPc hp

@[simp] theorem onlyChanges_setDt {b : Byte} (hd : Component.dt ∈ cs) :
    OnlyChanges cs s (setDt b t) ↔ OnlyChanges cs s t :=
  forall₂_congr fun c hc => by
    cases c with
    | dt => exact absurd hd hc
    | _ => exact Iff.rfl

@[simp] theorem onlyChanges_setSt {b : Byte} (hs : Component.st ∈ cs) :
    OnlyChanges cs s (setSt b t) ↔ OnlyChanges cs s t :=
  forall₂_congr fun c hc => by
    cases c with
    | st => exact absurd hs hc
    | _ => exact Iff.rfl

@[simp] theorem onlyChanges_setWait {b : Bool} (hw : Component.wait ∈ cs) :
    OnlyChanges cs s (setWait b t) ↔ OnlyChanges cs s t :=
  forall₂_congr fun c hc => by
    cases c with
    | wait => exact absurd hw hc
    | _ => exact Iff.rfl

@[simp] theorem onlyChanges_push {w : Word} (hk : Component.stack ∈ cs) :
    OnlyChanges cs s (push w t) ↔ OnlyChanges cs s t :=
  forall₂_congr fun c hc => by
    cases c with
    | stack => exact absurd hk hc
    | _ => exact Iff.rfl

@[simp] theorem onlyChanges_dropTop (hk : Component.stack ∈ cs) :
    OnlyChanges cs s (dropTop t) ↔ OnlyChanges cs s t :=
  forall₂_congr fun c hc => by
    cases c with
    | stack => exact absurd hk hc
    | _ => exact Iff.rfl

@[simp] theorem onlyChanges_setPix {p : List Bool} (hx : Component.pix ∈ cs) :
    OnlyChanges cs s (setPix p t) ↔ OnlyChanges cs s t :=
  forall₂_congr fun c hc => by
    cases c with
    | pix => exact absurd hx hc
    | _ => exact Iff.rfl

@[simp] theorem onlyChanges_enterMode {hires : Bool} (hh : Component.hires ∈ cs) (hx : Component.pix ∈ cs) :
    OnlyChanges cs s (enterMode hires t) ↔ OnlyChanges cs s t :=
  forall₂_congr fun c hc => by
    cases c with
    | hires => exact absurd hh hc
    | pix => exact absurd hx hc
    | _ => exact Iff.rfl

@[simp] theorem onlyChanges_ensureHires (hh : Component.hires ∈ cs) (hx : Component.pix ∈ cs) :
    OnlyChanges cs s (ensureHires t) ↔ OnlyChanges cs s t := by
  unfold ensureHires
  split
  · exact Iff.rfl
  · exact onlyChanges_enterMode hh hx

@[simp] theorem onlyChanges_sampled (hd : Component.draws ∈ cs) :
    OnlyChanges cs s (sampled t) ↔ OnlyChanges cs s t :=
  forall₂_congr fun c hc => by
    cases c with
    | draws => exact absurd hd hc
    | _ => exact Iff.rfl

@[simp] theorem onlyChanges_writeBytes {a : Nat} {ws : List Byte} (hm : Component.mem ∈ cs) :
    OnlyChanges cs s (writeBytes a ws t) ↔ OnlyChanges cs s t :=
  forall₂_congr fun c hc => by
    cases c with
    | mem => exact absurd hm hc
    | _ => exact Iff.rfl

/-! ## The spaces an instruction writes (R39, R76) -/

theorem execFX0A_onlyChanges {x : Reg} (h : execFX0A x s = .next t) : OnlyChanges [.v, .wait, .pc] s t := by
  have hP := onlyChanges_ignoresOutcome (cs := [.v, .wait, .pc]) (s := s)
  unfold execFX0A at h
  split at h <;> exact hP.of_complete h (by simp [onlyChanges_refl])

theorem exec_onlyChanges {i : Instr} (h : exec i s = .next t) : OnlyChanges (writesOf i) s t := by
  have hP := onlyChanges_ignoresOutcome (cs := writesOf i) (s := s)
  have hs := onlyChanges_refl (writesOf i) s
  cases i with
  | op00FD => exact hP.of_raise h hs
  | op00FE =>
    refine hP.of_complete h ?_
    split
    · simpa [writesOf] using hs
    · exact hs
  | op00EE => exact hP.of_exec00EE h hs fun _ _ => by simpa [writesOf] using hs
  | op2NNN nnn | opFX1E x | opFX33 x | opFX55 x | opFX65 x =>
    exact hP.of_ite_raise h hs fun _ => by simpa [writesOf] using hs
  | opEX9E x => exact hP.of_execEX9E h hs fun _ => by simpa [writesOf] using hs
  | opEXA1 x => exact hP.of_execEXA1 h hs fun _ => by simpa [writesOf] using hs
  | opDXYN x y n => exact hP.of_drawSprite h hs fun _ _ _ => by simpa [writesOf] using hs
  | opDXY0 x y => exact hP.of_execDXY0 h hs fun _ _ _ => by simpa [writesOf] using hs
  | opFX0A x => exact execFX0A_onlyChanges h
  | _ => exact hP.of_complete h (by simpa [writesOf] using hs)

/-! ## The registers an instruction writes (R20, R21) -/

theorem getV_ignoresOutcome (k : Reg) (b : Byte) : IgnoresOutcome fun u => getV u k = b := fun _ _ => Iff.rfl

@[simp] theorem getV_skipIf (taken : Bool) (k : Reg) : getV (skipIf taken s) k = getV s k := by
  rw [skipIf_eq, getV_setPc]

@[simp] theorem getV_ensureHires (k : Reg) : getV (ensureHires s) k = getV s k := by
  unfold ensureHires
  split <;> rfl

theorem execFX0A_keepsRegsBut {x : Reg} (h : execFX0A x s = .next t) : KeepsRegsBut [x] s t := by
  intro k hk
  have hne : k ≠ x := fun e => hk (List.mem_singleton.2 e)
  unfold execFX0A at h
  split at h <;> cases h <;> simp [getV_setV_ne hne]

theorem getV_setResultAndFlag_ne {x k : Reg} {b : Byte} {flag : Bool} (hx : k ≠ x) (hf : k ≠ regF) :
    getV (setResultAndFlag x b flag s) k = getV s k := by
  rw [getV_setResultAndFlag, if_neg hf, if_neg hx]

theorem getV_setLogicResult_ne {x k : Reg} {b : Byte} (hx : k ≠ x) (hf : s.quirks.logic = true → k ≠ regF) :
    getV (setLogicResult x b s) k = getV s k := by
  rw [getV_setLogicResult, if_neg fun ⟨hq, hk⟩ => hf hq hk, if_neg hx]

/-- An instruction that may not write register `k` leaves it. -/
theorem exec_keeps_getV {i : Instr} {k : Reg} (h : exec i s = .next t) (hk : mayWriteReg s.quirks k i = false) :
    getV t k = getV s k := by
  have hP := getV_ignoresOutcome k (getV s k)
  cases i with
  | op00FD => exact hP.of_raise h rfl
  | op00FE =>
    refine hP.of_complete h ?_
    split <;> rfl
  | op00EE => exact hP.of_exec00EE h rfl fun _ _ => rfl
  | op2NNN nnn | opFX1E x | opFX33 x | opFX55 x => exact hP.of_ite_raise h rfl fun _ => rfl
  | opEX9E x => exact hP.of_execEX9E h rfl fun _ => getV_skipIf _ k
  | opEXA1 x => exact hP.of_execEXA1 h rfl fun _ => getV_skipIf _ k
  | op8XY1 x y | op8XY2 x y | op8XY3 x y =>
    obtain ⟨hx, hf⟩ : k ≠ x ∧ (s.quirks.logic = true → k ≠ regF) := by simpa [mayWriteReg] using hk
    exact hP.of_complete h (getV_setLogicResult_ne hx hf)
  | op8XY4 x y | op8XY5 x y | op8XY6 x y | op8XY7 x y | op8XYE x y =>
    obtain ⟨hx, hf⟩ : k ≠ x ∧ k ≠ regF := by simpa [mayWriteReg] using hk
    exact hP.of_complete h (getV_setResultAndFlag_ne hx hf)
  | opDXYN x y n =>
    exact hP.of_drawSprite h rfl fun _ _ _ => getV_setV_ne (by simpa [mayWriteReg] using hk) _ _
  | opDXY0 x y =>
    exact hP.of_execDXY0 h rfl fun _ _ _ => getV_setV_ne (by simpa [mayWriteReg] using hk) _ _
  | opFX0A x => exact execFX0A_keepsRegsBut h k (by simpa [mayWriteReg] using hk)
  | opFX65 x =>
    have hk' : ¬k.toNat ≤ x.toNat := by simpa [mayWriteReg] using hk
    exact hP.of_ite_raise h rfl fun _ => (getV_loadRegsUpTo x k _ s).trans (if_neg hk')
  | opFX85 x =>
    have hk' : ¬k.toNat ≤ x.toNat := by simpa [mayWriteReg] using hk
    exact hP.of_complete h ((getV_restoreRpl x k s).trans (if_neg hk'))
  | op6XNN x nn | op7XNN x nn | op8XY0 x y | opCXNN x nn | opFX07 x =>
    exact hP.of_complete h (getV_setV_ne (by simpa [mayWriteReg] using hk) _ _)
  | _ => exact hP.of_complete h (by simp)

end Sys2Proof.Safety
end

section
/-! SUPPORT. The inputs under a Step; Reset; the words and the cases of 2NNN, CXNN and FX0A. -/

namespace Sys2Proof.Safety

open Sys2Proof Sys2Proof.Machine

variable {s t : State}

/-! ## The inputs: keys, straps, random samples (R27, R32, R36) -/

theorem keys_not_mem_writesOf (i : Instr) : Component.keys ∉ writesOf i := by
  cases i <;> simp [writesOf]

theorem quirks_not_mem_writesOf (i : Instr) : Component.quirks ∉ writesOf i := by
  cases i <;> simp [writesOf]

theorem draws_not_mem_writesOf {i : Instr} (hi : ∀ x nn, i ≠ .opCXNN x nn) : Component.draws ∉ writesOf i := by
  cases i with
  | opCXNN x nn => exact absurd rfl (hi x nn)
  | _ => simp [writesOf]

theorem execCXNN_draws {x : Reg} {nn : Byte} (h : exec (.opCXNN x nn) s = .next t) : t.draws = s.draws + 1 := by
  cases h
  rfl

theorem step_keeps_keys_and_quirks (h : step s = .next t) : t.keys = s.keys ∧ t.quirks = s.quirks := by
  obtain ⟨-, -, rfl⟩ | ⟨op, e, -, -, -, rfl⟩ | ⟨op, i, -, -, -, hx⟩ := step_cases h
  · exact ⟨rfl, rfl⟩
  · exact ⟨rfl, rfl⟩
  · have hframe := exec_onlyChanges hx
    exact ⟨hframe .keys (keys_not_mem_writesOf i), hframe .quirks (quirks_not_mem_writesOf i)⟩

theorem step_draws_of_CXNN {x : Reg} {nn : Byte} (hn : nextInstr s = some (.opCXNN x nn)) (h : step s = .next t) :
    t.draws = s.draws + 1 := by
  rw [step_of_nextInstr hn] at h
  simpa using execCXNN_draws h

theorem step_keeps_draws (hn : ∀ x nn, nextInstr s ≠ some (.opCXNN x nn)) (h : step s = .next t) :
    t.draws = s.draws := by
  obtain ⟨-, -, rfl⟩ | ⟨op, e, -, -, -, rfl⟩ | ⟨op, i, -, -, hi, hx⟩ := step_cases h
  · rfl
  · rfl
  · exact exec_onlyChanges hx .draws (draws_not_mem_writesOf fun x nn e => hn x nn (e ▸ hi))

/-! ## Reset (R38, R280) -/

/-- The reset state is what Reset and a HostLoad of nothing leave of it. -/
theorem boot_reset : boot ⟨Config.straps, [], Vector.replicate 16 0⟩ State.reset = State.reset := rfl

theorem reset_meets_invariants : MeetsInvariants State.reset :=
  boot_reset ▸ boot_meets_invariants _ reset_memory_wf

theorem getV_reset (k : Reg) : getV State.reset k = 0 := Vector.getElem_replicate _

theorem getRpl_reset (k : Reg) : getRpl State.reset k = 0 := Vector.getElem_replicate _

theorem keyDown_reset (k : Nat) : keyDown State.reset k = false := List.getElem?_getD_replicate_default_eq false 16 k

theorem fetch_hostReset (s : State) : fetch (hostReset s) = some (readByte s 0x200 ++ readByte s 0x201) := by
  rw [fetch_eq]
  rfl

/-! ## The word of an instruction (R95, R101) -/

/-- But for DXY0 the word of a well-formed instruction decodes to it in both modes. -/
theorem isWordOf_of_encoding {i : Instr} {op : Word} (hi : Laws.Encoding.Statement i) (hwf : wellFormed i = true)
    (hne : ∀ x y, i ≠ .opDXY0 x y) (he : encode i = op) : IsWordOf op i := by
  obtain ⟨hhigh, hlow⟩ := hi hwf
  refine ⟨he, fun hires => he ▸ ?_⟩
  cases hires with
  | true => exact hhigh
  | false => exact hlow hne

theorem isWordOf_2NNN (nnn : Addr12) : IsWordOf (0x2000#16 ||| atNNN nnn) (.op2NNN nnn) :=
  isWordOf_of_encoding (Laws.Encoding.op2NNN nnn) rfl nofun (or_nnn 0x2#4 nnn).symm

theorem isWordOf_CXNN (x : Reg) (nn : Byte) : IsWordOf (0xC000#16 ||| atX x ||| atNN nn) (.opCXNN x nn) :=
  isWordOf_of_encoding (Laws.Encoding.opCXNN x nn) rfl nofun (or_xnn 0xC#4 x nn).symm

theorem isWordOf_FX0A (x : Reg) : IsWordOf (0xF00A#16 ||| atX x) (.opFX0A x) :=
  isWordOf_of_encoding (Laws.Encoding.opFX0A x) rfl nofun (or_x 0xF#4 x 0x0A#8).symm

/-! ## The call (R143) -/

theorem exec2NNN_of_lt {nnn : Addr12} (h : s.sp < 16) :
    exec (.op2NNN nnn) s = .next (report .ok (setPc (addressOf nnn) (push s.pc s))) :=
  if_neg (Nat.not_le.2 h)

theorem exec2NNN_of_full {nnn : Addr12} (h : 16 ≤ s.sp) :
    exec (.op2NNN nnn) s = .next (report .stackOverflow s) :=
  if_pos h

/-! ## The random byte (R171) -/

theorem and_and_not_self (a b : Byte) : a &&& b &&& ~~~b = 0 := by
  rw [BitVec.and_assoc, BitVec.and_not_self]
  exact BitVec.and_zero

/-! ## The key wait: the four cases of R233 -/

section KeyWait

variable {x : Reg}

theorem execFX0A_waits (hk : lowestKey s = none) (hw : s.wait = false) :
    exec (.opFX0A x) s = .next (report .ok (rollBack s)) := by
  simp [exec, execFX0A, hk, hw]

theorem execFX0A_captures {low : Nat} (hk : lowestKey s = some low) (hw : s.wait = false) :
    exec (.opFX0A x) s =
      .next (report .ok (rollBack (setWait true (setV x (BitVec.ofNat 8 low) s)))) := by
  simp [exec, execFX0A, hk, hw]

theorem execFX0A_holds {low : Nat} (hk : lowestKey s = some low) (hw : s.wait = true) :
    exec (.opFX0A x) s = .next (report .ok (rollBack s)) := by
  simp [exec, execFX0A, hk, hw]

theorem execFX0A_proceeds (hk : lowestKey s = none) (hw : s.wait = true) :
    exec (.opFX0A x) s = .next (report .ok (setWait false s)) := by
  simp [exec, execFX0A, hk, hw]

/-- FX0A completes in each of its four cases. -/
theorem execFX0A_completes (x : Reg) (s : State) : ∃ t, exec (.opFX0A x) s = .next t ∧ t.outcome = .ok := by
  cases hk : lowestKey s <;> cases hw : s.wait
  · exact ⟨_, execFX0A_waits hk hw, rfl⟩
  · exact ⟨_, execFX0A_proceeds hk hw, rfl⟩
  · exact ⟨_, execFX0A_captures hk hw, rfl⟩
  · exact ⟨_, execFX0A_holds hk hw, rfl⟩

theorem lowestKey_some_of_down {k : Nat} (hlt : k < 16) (hk : keyDown s k = true) : ∃ low, lowestKey s = some low := by
  refine Option.ne_none_iff_exists'.1 fun hnone => ?_
  have hup := (lowestKey_none_iff s).1 hnone k hlt
  exact Bool.false_ne_true (hup.symm.trans hk)

end KeyWait

end Sys2Proof.Safety
end

section
/-! SUPPORT. The statements about the state: the invariants, the frames, Reset, 2NNN, CXNN and FX0A. -/

namespace Sys2Proof.Safety

open Sys2Proof Sys2Proof.Machine

/-- Settles O13. -/
theorem stepKeepsTheInvariant : Obligations.StepKeepsTheInvariant := fun _ _ => step_keeps_inv

/-- Settles O15. -/
theorem stepKeepsWaitingAtKeyWait : Obligations.StepKeepsWaitingAtKeyWait := fun _ _ => step_keeps_waitsAtKeyWait

/-- Settles O17. -/
theorem instructionsWriteOnlyTheirSpaces : Obligations.InstructionsWriteOnlyTheirSpaces :=
  fun _ _ _ => exec_onlyChanges

/-- Settles O18. -/
theorem instructionsWriteOnlyTheirRegisters : Obligations.InstructionsWriteOnlyTheirRegisters :=
  fun _ _ _ _ => exec_keeps_getV

/-- Settles O19, from the frame of the instruction the Step runs. -/
theorem stepLeavesTheInputs : Obligations.StepLeavesTheInputs := by
  intro s t h
  obtain ⟨hkeys, hquirks⟩ := step_keeps_keys_and_quirks h
  exact ⟨hkeys, hquirks, fun ⟨_, _, hn⟩ => step_draws_of_CXNN hn h, fun hn => step_keeps_draws hn h⟩

/-- Settles O14. -/
theorem resetMeetsTheInvariants : Obligations.ResetMeetsTheInvariants := reset_meets_invariants

/-- Settles O20. -/
theorem resetValues : Obligations.ResetValues :=
  ⟨rfl, getV_reset, rfl, rfl, rfl, rfl, keyDown_reset, rfl, rfl, List.length_replicate,
    List.getElem?_getD_replicate_default_eq false 2048, fun _ => rfl, getRpl_reset⟩

/-- Settles O21. -/
theorem entryPointIs0x200 : Obligations.EntryPointIs0x200 :=
  fun s => ⟨rfl, fetch_hostReset s, fun _ => rfl, fun _ => rfl⟩

/-- Settles O28. -/
theorem callPushesPcAndJumps : Obligations.CallPushesPcAndJumps := by
  intro nnn s
  refine ⟨isWordOf_2NNN nnn, fun hfree => ?_, exec2NNN_of_full⟩
  refine ⟨_, exec2NNN_of_lt hfree, rfl, rfl, addressOf_toNat nnn, ?_⟩
  simp [onlyChanges_refl]

/-- Settles O41. -/
theorem randomByteIsMasked : Obligations.RandomByteIsMasked := by
  intro x nn s
  have hx : getV (report .ok (sampled (setV x (randomInput s &&& nn) s))) x = Config.randomByte s.draws &&& nn := by
    simp [randomInput]
  refine ⟨isWordOf_CXNN x nn, _, rfl, rfl, exec_onlyChanges (i := .opCXNN x nn) rfl, hx, ?_, ?_, rfl, ?_⟩
  · rw [hx, and_and_not_self]
  · rintro rfl
    exact hx.trans BitVec.and_zero
  · intro k hk
    exact getV_setV_ne (by simpa using hk) _ _

/-- Settles O60, by the four cases of R233. -/
theorem keyWaitHasFourCases : Obligations.KeyWaitHasFourCases := by
  intro x s
  obtain ⟨t, h, hok⟩ := execFX0A_completes x s
  refine ⟨isWordOf_FX0A x, t, h, hok, fun hup hw => ?_, fun low hlt hdown hleast hw => ?_, ?_, fun hup hw => ?_⟩
  · obtain rfl := Host.Outcome.next.inj (h.symm.trans (execFX0A_waits ((lowestKey_none_iff s).2 hup) hw))
    exact ⟨by simp [onlyChanges_refl], rfl⟩
  · have hk := (lowestKey_some_iff s low).2 ⟨hlt, hdown, hleast⟩
    have hframe := exec_onlyChanges h
    have hregs := execFX0A_keepsRegsBut h
    obtain rfl := Host.Outcome.next.inj (h.symm.trans (execFX0A_captures hk hw))
    have hbyte : low % 256 = low := Nat.mod_eq_of_lt (by omega)
    exact ⟨hframe, by simpa using hbyte, hregs, rfl, rfl⟩
  · rintro ⟨k, hlt, hdown⟩ hw
    obtain ⟨low, hk⟩ := lowestKey_some_of_down hlt hdown
    obtain rfl := Host.Outcome.next.inj (h.symm.trans (execFX0A_holds hk hw))
    exact ⟨by simp [onlyChanges_refl], rfl⟩
  · obtain rfl := Host.Outcome.next.inj (h.symm.trans (execFX0A_proceeds ((lowestKey_none_iff s).2 hup) hw))
    exact ⟨by simp [onlyChanges_refl], rfl⟩

end Sys2Proof.Safety
end

section
/-! SUPPORT. A Step from the bytes at `pc`; bytes stored and read back; FX33, FX55 and FX65 within memory. -/

namespace Sys2Proof.Safety

open Sys2Proof Sys2Proof.Machine

variable {s t : State} {x : Reg}

/-! ## A Step from the bytes at `pc` (R121, R123) -/

theorem decodeWord_of_decode_pair {hires : Bool} {a b : Byte} {i : Instr} {rest : List Byte}
    (h : decode hires [a, b] = .ok (i, rest)) : decodeWord hires (a ++ b) = .ok i := by
  simp only [decode, wordOfBytes] at h
  split at h
  · next j hj =>
    cases h
    exact hj
  · cases h

theorem fetch_of_pc_le (hpc : s.pc.toNat ≤ 4094) :
    fetch s = some (readByte s s.pc.toNat ++ readByte s (s.pc.toNat + 1)) :=
  (fetch_eq s).trans (if_neg (Nat.not_lt.2 hpc))

theorem fetch_at {w : Word} (hw : w.toNat ≤ 4094) :
    fetch { s with pc := w } = some (readByte s w.toNat ++ readByte s (w.toNat + 1)) :=
  fetch_of_pc_le (s := setPc w s) hw

theorem nextInstr_of_decode {i : Instr} {rest : List Byte} (hpc : s.pc.toNat ≤ 4094)
    (h : decode s.hires [readByte s s.pc.toNat, readByte s (s.pc.toNat + 1)] = .ok (i, rest)) :
    nextInstr s = some i := by
  simp only [nextInstr, fetch_of_pc_le hpc, decodeWord_of_decode_pair h]

/-! ## Bytes stored within memory (R64) -/

theorem readByte_writeBytes_add {a k : Nat} {ws : List Byte} (hr : outOfRange a ws.length = false)
    (hm : Memory.wf s.mem = true) (hk : k < ws.length) : readByte (writeBytes a ws s) (a + k) = ws.getD k 0 := by
  have hin : a ≤ a + k ∧ a + k < a + ws.length := by omega
  rw [readByte_writeBytes hr hm, if_pos hin, Nat.add_sub_cancel_left]

theorem writeBytes_keepsBytesOutside {a : Nat} {ws : List Byte} (hr : outOfRange a ws.length = false)
    (hm : Memory.wf s.mem = true) : KeepsBytesOutside a ws.length s (writeBytes a ws s) := by
  intro b hb
  have hout : ¬(a ≤ b ∧ b < a + ws.length) := by omega
  rw [readByte_writeBytes hr hm, if_neg hout]

/-! ## The words (R101) -/

theorem isWordOf_FX33 (x : Reg) : IsWordOf (0xF033#16 ||| atX x) (.opFX33 x) :=
  isWordOf_of_encoding (Laws.Encoding.opFX33 x) rfl nofun (or_x 0xF#4 x 0x33#8).symm

theorem isWordOf_FX55 (x : Reg) : IsWordOf (0xF055#16 ||| atX x) (.opFX55 x) :=
  isWordOf_of_encoding (Laws.Encoding.opFX55 x) rfl nofun (or_x 0xF#4 x 0x55#8).symm

theorem isWordOf_FX65 (x : Reg) : IsWordOf (0xF065#16 ||| atX x) (.opFX65 x) :=
  isWordOf_of_encoding (Laws.Encoding.opFX65 x) rfl nofun (or_x 0xF#4 x 0x65#8).symm

/-! ## The adjustment of `I` (R189) -/

/-- The table of D14: the strap that leaves `I` decides first (C6). Within memory the sum does not wrap. -/
theorem adjustI_table {q : Quirks} {i : Word} (hr : i.toNat + x.toNat ≤ 4095) :
    (q.memoryLeaveIUnchanged = true → adjustI q i x = i) ∧
    (q.memoryLeaveIUnchanged = false → q.memoryIncrementByX = true →
      (adjustI q i x).toNat = i.toNat + x.toNat) ∧
    (q.memoryLeaveIUnchanged = false → q.memoryIncrementByX = false →
      (adjustI q i x).toNat = i.toNat + x.toNat + 1) := by
  refine ⟨fun hl => ?_, fun hl hx => ?_, fun hl hx => ?_⟩
  · simp [adjustI, hl]
  · simp only [adjustI, hl, hx, Bool.false_eq_true, if_false, if_true, BitVec.toNat_add, BitVec.toNat_setWidth]
    omega
  · simp only [adjustI, hl, hx, Bool.false_eq_true, if_false, BitVec.toNat_add, BitVec.toNat_setWidth,
      BitVec.reduceToNat]
    omega

/-! ## FX33: the decimal digits (R184) -/

theorem digits_inRange (hr : s.i.toNat + 2 ≤ 4095) (b : Byte) :
    outOfRange s.i.toNat (decimalDigits b).length = false :=
  (not_outOfRange_iff _ _).2 (Nat.succ_le_succ hr)

theorem execFX33_of_le (hr : s.i.toNat + 2 ≤ 4095) :
    exec (.opFX33 x) s = .next (report .ok (writeBytes s.i.toNat (decimalDigits (getV s x)) s)) :=
  if_neg (Bool.eq_false_iff.1 (digits_inRange hr (getV s x)))

theorem execFX33_stores (hm : Memory.wf s.mem = true) (hr : s.i.toNat + 2 ≤ 4095)
    (h : exec (.opFX33 x) s = .next t) :
    readByte t s.i.toNat = BitVec.ofNat 8 ((getV s x).toNat / 100) ∧
    readByte t (s.i.toNat + 1) = BitVec.ofNat 8 ((getV s x).toNat / 10 % 10) ∧
    readByte t (s.i.toNat + 2) = BitVec.ofNat 8 ((getV s x).toNat % 10) := by
  obtain rfl := Host.Outcome.next.inj ((execFX33_of_le hr).symm.trans h)
  have hdigit (k : Nat) (hk : k < 3) := readByte_writeBytes_add (digits_inRange hr (getV s x)) hm hk
  exact ⟨hdigit 0 (by decide), hdigit 1 (by decide), hdigit 2 (by decide)⟩

theorem execFX33_keepsBytesOutside (hm : Memory.wf s.mem = true) (hr : s.i.toNat + 2 ≤ 4095)
    (h : exec (.opFX33 x) s = .next t) : KeepsBytesOutside s.i.toNat 3 s t := by
  obtain rfl := Host.Outcome.next.inj ((execFX33_of_le hr).symm.trans h)
  exact writeBytes_keepsBytesOutside (digits_inRange hr _) hm

/-- A number that is at most a byte's value fits a byte, as each decimal digit does. -/
theorem toNat_ofNat_of_le_byte {n : Nat} {b : Byte} (h : n ≤ b.toNat) : (BitVec.ofNat 8 n).toNat = n :=
  (BitVec.toNat_ofNat n 8).trans (Nat.mod_eq_of_lt (Nat.lt_of_le_of_lt h b.isLt))

/-! ## FX55: the registers stored (R185) -/

theorem regs_inRange (hr : s.i.toNat + x.toNat ≤ 4095) :
    outOfRange s.i.toNat (regsUpTo x s).length = false := by
  rw [regsUpTo_length, not_outOfRange_iff]
  omega

theorem execFX55_of_le (hr : s.i.toNat + x.toNat ≤ 4095) :
    exec (.opFX55 x) s =
      .next (report .ok (setI (adjustI s.quirks s.i x) (writeBytes s.i.toNat (regsUpTo x s) s))) :=
  if_neg (Bool.eq_false_iff.1 (regsUpTo_length x s ▸ regs_inRange hr))

theorem execFX55_stores {k : Reg} (hm : Memory.wf s.mem = true) (hr : s.i.toNat + x.toNat ≤ 4095)
    (h : exec (.opFX55 x) s = .next t) (hk : k.toNat ≤ x.toNat) : readByte t (s.i.toNat + k.toNat) = getV s k := by
  obtain rfl := Host.Outcome.next.inj ((execFX55_of_le hr).symm.trans h)
  have hlt : k.toNat < (regsUpTo x s).length := by
    rw [regsUpTo_length]
    omega
  exact (readByte_writeBytes_add (regs_inRange hr) hm hlt).trans (regsUpTo_getD x k s hk)

theorem execFX55_keepsBytesOutside (hm : Memory.wf s.mem = true) (hr : s.i.toNat + x.toNat ≤ 4095)
    (h : exec (.opFX55 x) s = .next t) : KeepsBytesOutside s.i.toNat (x.toNat + 1) s t := by
  obtain rfl := Host.Outcome.next.inj ((execFX55_of_le hr).symm.trans h)
  exact regsUpTo_length x s ▸ writeBytes_keepsBytesOutside (regs_inRange hr) hm

/-! ## FX65: the registers loaded (R186) -/

theorem execFX65_of_le (hr : s.i.toNat + x.toNat ≤ 4095) :
    exec (.opFX65 x) s =
      .next (report .ok (setI (adjustI s.quirks s.i x)
        (loadRegsUpTo x (fun k => readByte s (s.i.toNat + k)) s))) :=
  if_neg (Bool.eq_false_iff.1 (regsUpTo_length x s ▸ regs_inRange hr))

end Sys2Proof.Safety
end

section
/-! SUPPORT. The statements about memory: the Step from the bytes at `pc`, FX33, FX55 and FX65, and the fetch of stored bytes. -/

namespace Sys2Proof.Safety

open Sys2Proof Sys2Proof.Machine

/-- Settles O49: the fetch reads at `I` the bytes that FX55 and FX33 stored there. -/
theorem storesAreSeenByTheNextFetch : Obligations.StoresAreSeenByTheNextFetch := by
  constructor
  · intro x s t hm hx hr h
    have hpc : s.i.toNat ≤ 4094 := by omega
    have hfirst : readByte t s.i.toNat = getV s 0 := execFX55_stores (k := 0) hm hr h (Nat.zero_le _)
    have hsecond : readByte t (s.i.toNat + 1) = getV s 1 := execFX55_stores (k := 1) hm hr h hx
    rw [fetch_at hpc, hfirst, hsecond]
  · intro x s t hm hr h
    have hpc : s.i.toNat ≤ 4094 := by omega
    obtain ⟨hfirst, hsecond, -⟩ := execFX33_stores hm hr h
    rw [fetch_at hpc, hfirst, hsecond]

/-- Settles O6. -/
theorem stepRunsTheDecodedInstruction : Obligations.StepRunsTheDecodedInstruction :=
  fun _ _ _ hpc hd => step_of_nextInstr (nextInstr_of_decode hpc hd)

/-- Settles O44. -/
theorem decimalDigitsAreStored : Obligations.DecimalDigitsAreStored := by
  intro x s hm hr
  have h := execFX33_of_le (x := x) hr
  obtain ⟨hhundreds, htens, hones⟩ := execFX33_stores hm hr h
  refine ⟨isWordOf_FX33 x, _, h, rfl, exec_onlyChanges h, ?_, ?_, ?_, execFX33_keepsBytesOutside hm hr h⟩
  · rw [hhundreds, toNat_ofNat_of_le_byte (Nat.div_le_self _ _)]
  · rw [htens, toNat_ofNat_of_le_byte ((Nat.mod_le _ _).trans (Nat.div_le_self _ _))]
  · rw [hones, toNat_ofNat_of_le_byte (Nat.mod_le _ _)]

/-- Settles O45. -/
theorem registersAreStored : Obligations.RegistersAreStored := by
  intro x s hm hr
  have h := execFX55_of_le hr
  exact ⟨isWordOf_FX55 x, _, h, rfl, exec_onlyChanges h, fun _ => execFX55_stores hm hr h,
    execFX55_keepsBytesOutside hm hr h, adjustI_table hr⟩

/-- Settles O46. -/
theorem registersAreLoaded : Obligations.RegistersAreLoaded := by
  intro x s hr
  have h := execFX65_of_le hr
  exact ⟨isWordOf_FX65 x, _, h, rfl, exec_onlyChanges h, fun k => getV_loadRegsUpTo x k _ s, adjustI_table hr⟩

end Sys2Proof.Safety
end

section
/-! SUPPORT. The decoder's answer to every word, the display mode in it, and the bytes of a word. -/

namespace Sys2Proof.Laws.Encoding

/-- The statement made for each instruction holds of all 44. -/
theorem statement_holds : ∀ i, Statement i
  | .op00CN n => op00CN n
  | .op00E0 => op00E0
  | .op00EE => op00EE
  | .op00FB => op00FB
  | .op00FC => op00FC
  | .op00FD => op00FD
  | .op00FE => op00FE
  | .op00FF => op00FF
  | .op1NNN nnn => op1NNN nnn
  | .op2NNN nnn => op2NNN nnn
  | .op3XNN x nn => op3XNN x nn
  | .op4XNN x nn => op4XNN x nn
  | .op5XY0 x y => op5XY0 x y
  | .op6XNN x nn => op6XNN x nn
  | .op7XNN x nn => op7XNN x nn
  | .op8XY0 x y => op8XY0 x y
  | .op8XY1 x y => op8XY1 x y
  | .op8XY2 x y => op8XY2 x y
  | .op8XY3 x y => op8XY3 x y
  | .op8XY4 x y => op8XY4 x y
  | .op8XY5 x y => op8XY5 x y
  | .op8XY6 x y => op8XY6 x y
  | .op8XY7 x y => op8XY7 x y
  | .op8XYE x y => op8XYE x y
  | .op9XY0 x y => op9XY0 x y
  | .opANNN nnn => opANNN nnn
  | .opBNNN nnn => opBNNN nnn
  | .opCXNN x nn => opCXNN x nn
  | .opDXYN x y n => opDXYN x y n
  | .opDXY0 x y => opDXY0 x y
  | .opEX9E x => opEX9E x
  | .opEXA1 x => opEXA1 x
  | .opFX07 x => opFX07 x
  | .opFX0A x => opFX0A x
  | .opFX15 x => opFX15 x
  | .opFX18 x => opFX18 x
  | .opFX1E x => opFX1E x
  | .opFX29 x => opFX29 x
  | .opFX30 x => opFX30 x
  | .opFX33 x => opFX33 x
  | .opFX55 x => opFX55 x
  | .opFX65 x => opFX65 x
  | .opFX75 x => opFX75 x
  | .opFX85 x => opFX85 x

end Sys2Proof.Laws.Encoding

namespace Sys2Proof.Safety

open Sys2Proof

variable {op : Word} {hires : Bool}

/-! ## The fields as numbers (R91) -/

theorem classOf_toNat (op : Word) : (classOf op).toNat = op.toNat / 0x1000 := by
  have := op.isLt
  simp only [classOf, toNat_extract]
  omega

theorem fieldN_toNat (op : Word) : (fieldN op).toNat = op.toNat % 0x10 := by
  simp only [fieldN, toNat_extract, Nat.pow_zero, Nat.div_one, Nat.reducePow]

theorem fieldNN_toNat (op : Word) : (fieldNN op).toNat = op.toNat % 0x100 := by
  simp only [fieldNN, toNat_extract, Nat.pow_zero, Nat.div_one, Nat.reducePow]

/-! ## A word from its class, its selector and its other fields (R91) -/

theorem eq_word_of_xyn {c n : BitVec 4} (hc : (classOf op).toNat = c.toNat) (hn : (fieldN op).toNat = n.toNat) :
    c ++ fieldX op ++ fieldY op ++ n = op := by
  rw [← BitVec.eq_of_toNat_eq hc, ← BitVec.eq_of_toNat_eq hn, word_of_xyn]

theorem eq_word_of_xnn {c : BitVec 4} {nn : Byte} (hc : (classOf op).toNat = c.toNat)
    (hnn : (fieldNN op).toNat = nn.toNat) : c ++ fieldX op ++ nn = op := by
  rw [← BitVec.eq_of_toNat_eq hc, ← BitVec.eq_of_toNat_eq hnn, word_of_xnn]

theorem eq_word_of_nnn {c : BitVec 4} (hc : (classOf op).toNat = c.toNat) : c ++ fieldNNN op = op := by
  rw [← BitVec.eq_of_toNat_eq hc, word_of_nnn]

theorem eq_word_of_n {k : BitVec 12} (hk : op.extractLsb' 4 12 = k) : k ++ fieldN op = op := by
  rw [← hk]
  apply BitVec.eq_of_toNat_eq
  have := op.isLt
  simp only [fieldN, toNat_extract, toNat_append]
  omega

/-! ## The two answers (R94, R96) -/

/-- What the decoder may answer to the word `op`: `InvalidOpcode(op)` where the word is illegal, else a well-formed
instruction of which `op` is the encoding. -/
inductive DecoderAnswer (op : Word) (illegal : Bool) : Except DecodeError Instr → Prop
  | refuses (hill : illegal = true) : DecoderAnswer op illegal (.error (.invalidOpcode op))
  | reads {i : Instr} (hleg : illegal = false) (hwf : wellFormed i = true) (he : encode i = op) :
      DecoderAnswer op illegal (.ok i)

namespace DecoderAnswer

variable {illegal : Bool} {r : Except DecodeError Instr} {i : Instr}

theorem eq_error (h : DecoderAnswer op illegal r) (hill : illegal = true) : r = .error (.invalidOpcode op) := by
  cases h with
  | refuses => rfl
  | reads hleg => exact absurd (hill.symm.trans hleg) nofun

theorem eq_ok (h : DecoderAnswer op illegal r) (hleg : illegal = false) : ∃ i, r = .ok i := by
  cases h with
  | refuses hill => exact absurd (hill.symm.trans hleg) nofun
  | reads => exact ⟨_, rfl⟩

theorem encodes (h : DecoderAnswer op illegal (.ok i)) : wellFormed i = true ∧ encode i = op := by
  cases h with
  | reads _ hwf he => exact ⟨hwf, he⟩

end DecoderAnswer

/-! ## The answer in each class (R94, R96) -/

theorem answer_class0 (hires : Bool) (hc : (classOf op).toNat = 0x0) :
    DecoderAnswer op (illegalWord hires op.toNat) (decodeClass0 op) := by
  simp only [illegalWord, ← classOf_toNat, hc]
  unfold decodeClass0
  split_ifs with hE0 hEE hC hFB hFC hFD hFE hFF
  -- No row of class 0 has the word.
  on_goal 9 =>
    simp only [BitVec.toNat_eq, toNat_extract, BitVec.toNat_ofNat] at *
    refine .refuses ?_
    simp only [List.contains_eq_mem, ← Bool.decide_or, ← decide_not, decide_eq_true_eq, List.mem_cons,
      List.not_mem_nil, or_false]
    omega
  -- 00CN, the one row of class 0 with a field.
  on_goal 3 =>
    have hrow : op.toNat / 2 ^ 4 % 2 ^ 12 = 0x00C := (toNat_extract op 4 12).symm.trans (congrArg BitVec.toNat hC)
    refine .reads ?_ rfl (eq_word_of_n hC)
    simp only [List.contains_eq_mem, ← Bool.decide_or, ← decide_not, decide_eq_false_iff_not]
    omega
  all_goals
    subst op
    exact .reads rfl rfl rfl

theorem illegalWord_of_class5_or_9 (hc : (classOf op).toNat ∈ [0x5, 0x9]) :
    illegalWord hires op.toNat = ((fieldN op).toNat != 0) := by
  simp only [illegalWord, ← classOf_toNat, ← fieldN_toNat]
  generalize (classOf op).toNat = c at hc
  fin_cases hc <;> rfl

/-- Classes 5 and 9 hold one instruction each, where `N` is 0. -/
theorem answer_if_n_zero {i : Instr} (hwf : wellFormed i = true) (he : fieldN op = 0#4 → encode i = op) :
    DecoderAnswer op ((fieldN op).toNat != 0) (if fieldN op = 0#4 then .ok i else .error (.invalidOpcode op)) := by
  split_ifs with hn
  · exact .reads (by rw [hn]; rfl) hwf (he hn)
  · exact .refuses (bne_iff_ne.2 fun h => hn (BitVec.eq_of_toNat_eq h))

theorem answer_class8 (hires : Bool) (hc : (classOf op).toNat = 0x8) :
    DecoderAnswer op (illegalWord hires op.toNat) (decodeClass8 op) := by
  simp only [illegalWord, ← classOf_toNat, ← fieldN_toNat, hc]
  unfold decodeClass8
  split
  case h_10 =>
    have hlt := (fieldN op).isLt
    refine .refuses ?_
    simp only [List.contains_eq_mem, decide_eq_true_eq, List.mem_cons, List.not_mem_nil, or_false]
    grind
  all_goals
    next hn => exact .reads (by rw [hn]; rfl) rfl (eq_word_of_xyn hc hn)

theorem answer_classD (hires : Bool) (hc : (classOf op).toNat = 0xD) :
    DecoderAnswer op (illegalWord hires op.toNat) (decodeClassD hires op) := by
  simp only [illegalWord, ← classOf_toNat, ← fieldN_toNat, hc]
  unfold decodeClassD
  split_ifs with hn hh
  · have hne : (fieldN op).toNat ≠ 0 := fun h => hn (BitVec.eq_of_toNat_eq h)
    exact .reads (by simp [hne]) (bne_iff_ne.2 hn) (eq_word_of_xyn hc rfl)
  · exact .reads (by simp [hh]) rfl (eq_word_of_xyn hc (congrArg BitVec.toNat (not_not.1 hn)))
  · exact .refuses (by simp [not_not.1 hn, hh])

theorem answer_classE (hires : Bool) (hc : (classOf op).toNat = 0xE) :
    DecoderAnswer op (illegalWord hires op.toNat) (decodeClassE op) := by
  simp only [illegalWord, ← classOf_toNat, ← fieldNN_toNat, hc]
  unfold decodeClassE
  split
  case h_3 => exact .refuses (by simp_all)
  all_goals
    next hnn => exact .reads (by rw [hnn]; rfl) rfl (eq_word_of_xnn hc hnn)

theorem answer_classF (hires : Bool) (hc : (classOf op).toNat = 0xF) :
    DecoderAnswer op (illegalWord hires op.toNat) (decodeClassF op) := by
  simp only [illegalWord, ← classOf_toNat, ← fieldNN_toNat, hc]
  unfold decodeClassF
  split
  case h_13 => exact .refuses (by simp_all)
  all_goals
    next hnn => exact .reads (by rw [hnn]; rfl) rfl (eq_word_of_xnn hc hnn)

/-- In the classes without a selector every word is legal. -/
theorem legal_of_class (hc : (classOf op).toNat ∈ [0x1, 0x2, 0x3, 0x4, 0x6, 0x7, 0xA, 0xB, 0xC]) :
    illegalWord hires op.toNat = false := by
  simp only [illegalWord, ← classOf_toNat]
  generalize (classOf op).toNat = c at hc
  fin_cases hc <;> rfl

/-- R94, R96: every word gets one of the two answers, and the refusal exactly where the list of R96 has it. -/
theorem decodeWord_answers (hires : Bool) (op : Word) :
    DecoderAnswer op (illegalWord hires op.toNat) (decodeWord hires op) := by
  unfold decodeWord
  split
  case h_1 hc => exact answer_class0 hires hc
  case h_2 hc | h_3 hc | h_11 hc | h_12 hc =>
    exact .reads (legal_of_class (by rw [hc]; decide)) rfl (eq_word_of_nnn hc)
  case h_4 hc | h_5 hc | h_7 hc | h_8 hc | h_13 hc =>
    exact .reads (legal_of_class (by rw [hc]; decide)) rfl (eq_word_of_xnn hc rfl)
  case h_6 hc | h_10 hc =>
    rw [illegalWord_of_class5_or_9 (by rw [hc]; decide)]
    exact answer_if_n_zero rfl fun hn => eq_word_of_xyn hc (congrArg BitVec.toNat hn)
  case h_9 hc => exact answer_class8 hires hc
  case h_14 hc => exact answer_classD hires hc
  case h_15 hc => exact answer_classE hires hc
  case h_16 hc => exact answer_classF hires hc
  -- A class is below 16.
  case h_17 =>
    have hlt := (classOf op).isLt
    grind

/-! ## The display mode (R97) -/

theorem decodeWord_classD (hires : Bool) (hc : (classOf op).toNat = 0xD) :
    decodeWord hires op = decodeClassD hires op := by
  simp only [decodeWord, hc]

theorem decodeWord_DXY0 (hires : Bool) (hc : (classOf op).toNat = 0xD) (hn : fieldN op = 0#4) :
    decodeWord hires op =
      if hires then .ok (.opDXY0 (fieldX op) (fieldY op)) else .error (.invalidOpcode op) :=
  (decodeWord_classD hires hc).trans (if_neg (not_not.2 hn))

theorem decodeWord_DXYN (hires : Bool) (hc : (classOf op).toNat = 0xD) (hn : fieldN op ≠ 0#4) :
    decodeWord hires op = .ok (.opDXYN (fieldX op) (fieldY op) (fieldN op)) :=
  (decodeWord_classD hires hc).trans (if_pos hn)

theorem decodeWord_mode_irrelevant (h : ¬((classOf op).toNat = 0xD ∧ fieldN op = 0#4)) :
    decodeWord true op = decodeWord false op := by
  by_cases hc : (classOf op).toNat = 0xD
  · have hn : fieldN op ≠ 0#4 := fun hn => h ⟨hc, hn⟩
    rw [decodeWord_DXYN true hc hn, decodeWord_DXYN false hc hn]
  · unfold decodeWord
    split
    case h_14 hD => exact absurd hD hc
    all_goals rfl

/-- `op & 0xF00F` keeps the class and `N` and clears `X` and `Y`. -/
theorem and_0xF00F (op : Word) : op &&& 0xF00F#16 = classOf op ++ 0#4 ++ 0#4 ++ fieldN op := by
  have hc : classOf (op &&& 0xF00F#16) = classOf op := BitVec.extractLsb'_and.trans BitVec.and_allOnes
  have hx : fieldX (op &&& 0xF00F#16) = 0#4 := BitVec.extractLsb'_and.trans BitVec.and_zero
  have hy : fieldY (op &&& 0xF00F#16) = 0#4 := BitVec.extractLsb'_and.trans BitVec.and_zero
  have hn : fieldN (op &&& 0xF00F#16) = fieldN op := BitVec.extractLsb'_and.trans BitVec.and_allOnes
  rw [← word_of_xyn (op &&& 0xF00F#16), hc, hx, hy, hn]

theorem and_0xF00F_eq_0xD000_iff (op : Word) :
    op &&& 0xF00F#16 = 0xD000#16 ↔ (classOf op).toNat = 0xD ∧ fieldN op = 0#4 := by
  rw [and_0xF00F]
  constructor
  · intro h
    have hc := (classOf_xyn _ _ _ _).symm.trans (congrArg classOf h)
    have hn := (fieldN_xyn _ _ _ _).symm.trans (congrArg fieldN h)
    exact ⟨congrArg BitVec.toNat hc, hn⟩
  · rintro ⟨hc, hn⟩
    have hc : classOf op = 0xD#4 := BitVec.eq_of_toNat_eq hc
    rw [hc, hn]
    rfl

/-! ## The bytes of a word (R63, R90) -/

theorem decode_bytesOfWord {i : Instr} (rest : List Byte) (h : decodeWord hires op = .ok i) :
    decode hires (bytesOfWord op ++ rest) = .ok (i, rest) := by
  simp only [bytesOfWord, List.cons_append, List.nil_append, decode, wordOfBytes_bytesOfWord, h]

end Sys2Proof.Safety
end

section
/-! SUPPORT. The statements about the encoding (`spec/30_encoding.md`). -/

namespace Sys2Proof.Safety

open Sys2Proof

/-- Settles O1, by the statement made for each instruction. -/
theorem decodeOfEncodeGivesBack : Obligations.DecodeOfEncodeGivesBack := by
  intro i rest hwf
  obtain ⟨hhigh, hlow⟩ := Laws.Encoding.statement_holds i hwf
  exact ⟨decode_bytesOfWord rest hhigh, fun hne => decode_bytesOfWord rest (hlow hne)⟩

/-- Settles O2. -/
theorem encodeOfDecodeGivesBack : Obligations.EncodeOfDecodeGivesBack :=
  fun hires op _ h => (h ▸ decodeWord_answers hires op).encodes

/-- Settles O3. -/
theorem illegalWordsAreExactlyTheList : Obligations.IllegalWordsAreExactlyTheList :=
  fun hires op => ⟨(decodeWord_answers hires op).eq_error, (decodeWord_answers hires op).eq_ok⟩

/-- Settles O5: the mask `0xF00F` singles out the words of class D with `N` = 0. -/
theorem modeDecidesOnlyDxy0 : Obligations.ModeDecidesOnlyDxy0 := by
  intro op
  rw [Ne, and_0xF00F_eq_0xD000_iff]
  exact ⟨decodeWord_mode_irrelevant,
    fun ⟨hc, hn⟩ => ⟨decodeWord_DXY0 true hc hn, decodeWord_DXY0 false hc hn⟩⟩

/-- Settles O4, by running the decoder on the seven pairs of bytes. -/
theorem workedEncodingsDecode : Obligations.WorkedEncodingsDecode := ⟨rfl, rfl, rfl, rfl, rfl, rfl, rfl⟩

end Sys2Proof.Safety
end

section
/-! SUPPORT. How an instruction ends: by 00FD's exit, completed, or by a fault that leaves the state; and the range faults of R254. -/

namespace Sys2Proof.Safety

open Sys2Proof Sys2Proof.Machine

variable {s t : State} {i : Instr}

/-! ## The Steps that execute no instruction (R121, R122) -/

theorem step_of_pc_gt (hpc : 4094 < s.pc.toNat) : step s = .next (report .indexOutOfRange s) := by
  have hf : fetch s = none := (fetch_eq s).trans (if_pos hpc)
  simp only [step, hf, raise_eq]

theorem step_of_illegalWord {op : Word} (hf : fetch s = some op) (hill : illegalWord s.hires op.toNat = true) :
    step s = .next (report (.invalidOpcode op) (advance s)) := by
  have hd := (decodeWord_answers s.hires op).eq_error hill
  simp only [step, hf, hd, raise_eq]

theorem onlyChanges_pc_advance (s : State) : OnlyChanges [.pc] s (advance s) :=
  (onlyChanges_setPc (List.mem_singleton_self _)).2 (onlyChanges_refl _ s)

/-! ## The two ends of an instruction other than 00FD (R125, R126) -/

/-- The instruction completes, whatever it wrote, or raises one of the four faults on the state it found. -/
inductive CompletesOrFaults (s : State) : Answer → Prop
  | completes (u : State) : CompletesOrFaults s (.next (report .ok u))
  | faults {o : StepOutcome} (hfault : isFault o = true) : CompletesOrFaults s (.next (report o s))

namespace CompletesOrFaults

/-- An instruction that tests its range first. -/
theorem of_ite_raise {c : Prop} [Decidable c] {o : StepOutcome} (hfault : isFault o = true) (u : State) :
    CompletesOrFaults s (if c then raise o s else complete u) := by
  split
  · exact .faults hfault
  · exact .completes u

theorem of_drawSprite (n : Nat) (points : List (Nat × Nat)) (x y : Reg) :
    CompletesOrFaults s (drawSprite n points x y s) := by
  obtain ⟨-, hd⟩ | ⟨-, pix, hit, -, -, hd⟩ := drawSprite_eq n points x y s <;> rw [hd]
  · exact .faults rfl
  · exact .completes _

theorem of_execDXY0 (x y : Reg) : CompletesOrFaults s (execDXY0 x y s) := by
  unfold execDXY0
  split
  · exact of_drawSprite _ _ x y
  · exact .faults rfl

theorem of_exec00EE : CompletesOrFaults s (exec00EE s) := by
  unfold exec00EE
  split
  · exact .faults rfl
  · exact .completes _

theorem of_execEX9E (x : Reg) : CompletesOrFaults s (execEX9E x s) := by
  unfold execEX9E
  split
  · exact .faults rfl
  · exact .completes _

theorem of_execEXA1 (x : Reg) : CompletesOrFaults s (execEXA1 x s) := by
  unfold execEXA1
  split
  · exact .faults rfl
  · exact .completes _

theorem of_execFX0A (x : Reg) : CompletesOrFaults s (execFX0A x s) := by
  unfold execFX0A
  split <;> exact .completes _

theorem outcome_ne_exit (h : CompletesOrFaults s (.next t)) : t.outcome ≠ .exit := by
  cases h with
  | completes => exact nofun
  | faults hfault =>
    intro hexit
    cases hexit
    cases hfault

theorem eq_report_of_isFault (h : CompletesOrFaults s (.next t)) (hfault : isFault t.outcome = true) :
    t = report t.outcome s := by
  cases h with
  | completes => cases hfault
  | faults => rfl

end CompletesOrFaults

theorem exec_completesOrFaults (hi : i ≠ .op00FD) (s : State) : CompletesOrFaults s (exec i s) := by
  cases i with
  | op00FD => exact absurd rfl hi
  | op00EE => exact .of_exec00EE
  | op2NNN nnn | opFX1E x | opFX33 x | opFX55 x | opFX65 x => exact .of_ite_raise rfl _
  | opDXYN x y n => exact .of_drawSprite _ _ x y
  | opDXY0 x y => exact .of_execDXY0 x y
  | opEX9E x => exact .of_execEX9E x
  | opEXA1 x => exact .of_execEXA1 x
  | opFX0A x => exact .of_execFX0A x
  | _ => exact .completes _

theorem exec_exit_iff (h : exec i s = .next t) : t.outcome = .exit ↔ i = .op00FD := by
  constructor
  · intro hexit
    by_contra hi
    exact (h ▸ exec_completesOrFaults hi s).outcome_ne_exit hexit
  · rintro rfl
    cases h
    rfl

/-- A fault of an instruction leaves the state it found (D7). -/
theorem exec_eq_report_of_isFault (h : exec i s = .next t) (hfault : isFault t.outcome = true) :
    t = report t.outcome s := by
  have hi : i ≠ .op00FD := by
    intro hi
    rw [(exec_exit_iff h).2 hi] at hfault
    cases hfault
  exact (h ▸ exec_completesOrFaults hi s).eq_report_of_isFault hfault

/-! ## The range faults (R254) -/

theorem keyIndex_eq_none {x : Reg} (h : 15 < (getV s x).toNat) : keyIndex x s = none := if_pos h

/-- Where the condition of the table holds, the range test of the instruction fires. -/
theorem exec_of_indexFault (h : indexFault s i = true) : exec i s = .next (report .indexOutOfRange s) := by
  cases i with
  | opDXYN x y n =>
    have hr : 4095 < s.i.toNat + n.toNat - 1 := of_decide_eq_true h
    exact if_pos ((outOfRange_iff _ _).2 ⟨hr, by omega⟩)
  | opDXY0 x y =>
    obtain ⟨hhires, hr⟩ : s.hires = true ∧ 4095 < s.i.toNat + 31 := by simpa [indexFault] using h
    exact (if_pos hhires).trans (if_pos ((outOfRange_iff _ _).2 ⟨hr, by omega⟩))
  | opFX33 x =>
    have hr : 4095 < s.i.toNat + 2 := of_decide_eq_true h
    exact if_pos ((outOfRange_iff _ _).2 ⟨hr, by omega⟩)
  | opFX55 x | opFX65 x =>
    have hr : 4095 < s.i.toNat + x.toNat := of_decide_eq_true h
    exact if_pos ((outOfRange_iff _ _).2 ⟨hr, by omega⟩)
  | opFX1E x => exact if_pos (of_decide_eq_true h)
  | opEX9E x | opEXA1 x =>
    have hkey : keyIndex x s = none := keyIndex_eq_none (of_decide_eq_true h)
    simp [exec, execEX9E, execEXA1, hkey]
  | _ => cases h

end Sys2Proof.Safety
end

section
/-! SUPPORT. Jumps with offset, and the ALU: words of two registers, a result with its flag, a logical result. -/

namespace Sys2Proof.Safety

open Sys2Proof Sys2Proof.Machine

variable {s : State} {i : Instr}

/-! ## The words (R101) -/

theorem isWordOf_BNNN (nnn : Addr12) : IsWordOf (0xB000#16 ||| atNNN nnn) (.opBNNN nnn) :=
  isWordOf_of_encoding (Laws.Encoding.opBNNN nnn) rfl nofun (or_nnn 0xB#4 nnn).symm

/-- The word of an instruction with two registers: `c` in the class, `k` in `N` (R92). -/
theorem isWordOf_xy (c k : BitVec 4) {x y : Reg} (hwf : wellFormed i = true) (hne : ∀ x y, i ≠ .opDXY0 x y)
    (he : encode i = c ++ x ++ y ++ k) :
    IsWordOf ((c.setWidth 16 <<< 12 ||| k.setWidth 16) ||| atX x ||| atY y) i :=
  isWordOf_of_encoding (Laws.Encoding.statement_holds i) hwf hne (he.trans (or_xy c k x y).symm)

/-! ## The jump with offset (R148) -/

/-- BNNN's sum fits 16 bits: nothing is reduced (D20). -/
theorem addressOf_add_toNat (nnn : Addr12) (b : Byte) :
    (addressOf nnn + b.setWidth 16).toNat = nnn.toNat + b.toNat := by
  have hn := nnn.isLt
  have hb := b.isLt
  simp only [BitVec.toNat_add, addressOf_toNat, BitVec.toNat_setWidth]
  omega

/-- `NNN[11:8]`. -/
theorem highNibble_eq (nnn : Addr12) : nnn.extractLsb' 8 4 = BitVec.ofNat 4 (nnn.toNat / 256) := by
  apply BitVec.eq_of_toNat_eq
  exact (toNat_extract nnn 8 4).trans (BitVec.toNat_ofNat _ _).symm

/-! ## A result with its flag (R127, R172) -/

/-- An ALU instruction that writes a result and then a flag to VF (D8). -/
theorem exec_resultAndFlag {x : Reg} {b : Byte} {flag : Bool}
    (h : exec i s = complete (setResultAndFlag x b flag s)) :
    ∃ t, exec i s = .next t ∧ t.outcome = .ok ∧ OnlyChanges [.v] s t ∧
      (x ≠ regF → getV t x = b) ∧ getV t regF = flagByte flag ∧ KeepsRegsBut [x, regF] s t := by
  refine ⟨_, h, rfl, by simp [onlyChanges_refl], fun hx => ?_, ?_, fun k hk => ?_⟩
  · simp [hx, getV_setResultAndFlag]
  · simp [getV_setResultAndFlag]
  · obtain ⟨hx, hf⟩ : k ≠ x ∧ k ≠ regF := by simpa using hk
    exact getV_setResultAndFlag_ne hx hf

theorem flagByte_toNat (b : Bool) : (flagByte b).toNat = b.toNat := by
  cases b <;> rfl

theorem flagByte_carryOut {a b : Byte} :
    (255 < a.toNat + b.toNat → flagByte (carryOut a b) = 1) ∧
    (a.toNat + b.toNat ≤ 255 → flagByte (carryOut a b) = 0) :=
  ⟨fun h => if_pos (decide_eq_true h), fun h => if_neg (by simpa [carryOut] using h)⟩

theorem flagByte_notBorrow {a b : Byte} :
    (b.toNat ≤ a.toNat → flagByte (notBorrow a b) = 1) ∧ (a.toNat < b.toNat → flagByte (notBorrow a b) = 0) :=
  ⟨fun h => if_pos (decide_eq_true h), fun h => if_neg (by simpa [notBorrow] using h)⟩

theorem flagByte_lowBit (a : Byte) : (flagByte (lowBit a)).toNat = a.toNat % 2 := by
  rw [flagByte_toNat, lowBit, BitVec.getLsbD, Nat.toNat_testBit, Nat.pow_zero, Nat.div_one]

theorem flagByte_highBit (a : Byte) : (flagByte (highBit a)).toNat = a.toNat / 128 := by
  have ha := a.isLt
  rw [flagByte_toNat, highBit, BitVec.getLsbD, Nat.toNat_testBit]
  omega

theorem toNat_sub_byte (a b : Byte) : (a - b).toNat = (a.toNat + 256 - b.toNat) % 256 := by
  have hb := b.isLt
  rw [BitVec.toNat_sub]
  omega

/-- 8XY5 and 8XY7: VX takes `a - b`, VF whether no borrow occurs. -/
theorem exec_subtract {x : Reg} {a b : Byte}
    (h : exec i s = complete (setResultAndFlag x (a - b) (notBorrow a b) s)) :
    ∃ t, exec i s = .next t ∧ t.outcome = .ok ∧ OnlyChanges [.v] s t ∧
      (x ≠ regF → (getV t x).toNat = (a.toNat + 256 - b.toNat) % 256) ∧
      (b.toNat ≤ a.toNat → getV t regF = 1) ∧ (a.toNat < b.toNat → getV t regF = 0) ∧
      KeepsRegsBut [x, regF] s t := by
  obtain ⟨t, h, hok, hframe, hresult, hflag, hregs⟩ := exec_resultAndFlag h
  obtain ⟨hno, hborrow⟩ := flagByte_notBorrow (a := a) (b := b)
  refine ⟨t, h, hok, hframe, fun hx => ?_, fun hle => hflag.trans (hno hle), fun hlt => hflag.trans (hborrow hlt),
    hregs⟩
  rw [hresult hx, toNat_sub_byte]

/-! ## A logical result (R163 to R165) -/

theorem logicalResult_setLogicResult {x y : Reg} {b : Byte} {f : Bool → Bool → Bool}
    (hb : ∀ k, b.getLsbD k = f ((getV s x).getLsbD k) ((getV s y).getLsbD k)) :
    LogicalResult f x y s (setLogicResult x b s) := by
  refine ⟨fun hkept k _ => ?_, fun hq => ⟨?_, fun k hk => ?_⟩, fun hq k hk => ?_⟩
  · have hnot : ¬(s.quirks.logic = true ∧ x = regF) := by
      rintro ⟨hq, hx⟩
      simp [hq, hx] at hkept
    rw [getV_setLogicResult, if_neg hnot, if_pos rfl, hb]
  · rw [getV_setLogicResult, if_pos ⟨hq, rfl⟩]
  · obtain ⟨hx, hf⟩ : k ≠ x ∧ k ≠ regF := by simpa using hk
    exact getV_setLogicResult_ne hx fun _ => hf
  · have hx : k ≠ x := by simpa using hk
    exact getV_setLogicResult_ne hx (by simp [hq])

/-- A logical instruction whose result is `f` of the two operands' bits (C4, D8). -/
theorem exec_logicResult {x y : Reg} {b : Byte} {f : Bool → Bool → Bool}
    (h : exec i s = complete (setLogicResult x b s))
    (hb : ∀ k, b.getLsbD k = f ((getV s x).getLsbD k) ((getV s y).getLsbD k)) :
    ∃ t, exec i s = .next t ∧ t.outcome = .ok ∧ OnlyChanges [.v] s t ∧ LogicalResult f x y s t :=
  ⟨_, h, rfl, by simp [onlyChanges_refl], logicalResult_setLogicResult hb⟩

end Sys2Proof.Safety
end

section
/-! SUPPORT. The statements about the Step, its faults and Exit (`spec/40_step_cycle.md`), BNNN, and the ALU's two-register instructions. -/

namespace Sys2Proof.Safety

open Sys2Proof Sys2Proof.Machine

/-- Settles O10, by the three cases of a Step: a fetch fault keeps `pc`, and the other two run on the advanced state. -/
theorem faultsArePrecise : Obligations.FaultsArePrecise := by
  intro s t h hfault
  -- A fault on the advanced state: an illegal word's, or an instruction's.
  have hadvanced {op : Word} {o : StepOutcome} (hf : fetch s = some op) (ht : t = report o (advance s)) :
      OnlyChanges [.pc] s t ∧ t.pc = (if 4094 < s.pc.toNat then s.pc else s.pc + 2) := by
    rw [if_neg (Nat.not_lt.2 (pc_le_of_fetch hf)), ht]
    exact ⟨onlyChanges_report_iff.2 (onlyChanges_pc_advance s), rfl⟩
  obtain ⟨-, hpc, rfl⟩ | ⟨op, e, hf, -, -, ht⟩ | ⟨op, i, hf, -, -, hx⟩ := step_cases h
  · rw [if_pos hpc]
    exact ⟨onlyChanges_report _ _ s, rfl⟩
  · exact hadvanced hf ht
  · exact hadvanced hf (exec_eq_report_of_isFault hx hfault)

/-- Settles O11, by the three cases of a Step. -/
theorem exitComesOnlyFrom00FD : Obligations.ExitComesOnlyFrom00FD := by
  intro s t h
  obtain ⟨hf, -, rfl⟩ | ⟨op, e, -, -, hn, rfl⟩ | ⟨op, i, -, -, hn, hx⟩ := step_cases h
  · have hn : nextInstr s = none := by simp only [nextInstr, hf]
    simp [hn]
  · simp [hn]
  · rw [hn, Option.some.injEq, exec_exit_iff hx]

/-- Settles O50. -/
theorem rangeFaultsChangeNothing : Obligations.RangeFaultsChangeNothing := fun _ _ => exec_of_indexFault

/-- Settles O7. -/
theorem illegalWordIsReported : Obligations.IllegalWordIsReported :=
  fun _ hpc hill => step_of_illegalWord (fetch_of_pc_le hpc) hill

/-- Settles O8. -/
theorem fetchBeyondMemoryChangesNothing : Obligations.FetchBeyondMemoryChangesNothing := fun _ => step_of_pc_gt

/-- Settles O33. -/
theorem jumpWithOffset : Obligations.JumpWithOffset := by
  intro nnn s
  refine ⟨isWordOf_BNNN nnn, _, rfl, rfl, exec_onlyChanges (i := .opBNNN nnn) rfl, fun hq => ?_, fun hq => ?_⟩
  · have hoff : jumpOffset nnn s = getV s 0 := by simp [jumpOffset, hq]
    exact hoff ▸ addressOf_add_toNat nnn _
  · have hoff : jumpOffset nnn s = getV s (BitVec.ofNat 4 (nnn.toNat / 256)) := by
      rw [← highNibble_eq, jumpOffset, if_pos hq]
    exact hoff ▸ addressOf_add_toNat nnn _

/-- Settles O37. -/
theorem logicalOperations : Obligations.LogicalOperations := by
  intro x y s
  refine ⟨isWordOf_xy 0x8 0x1 rfl nofun rfl, isWordOf_xy 0x8 0x2 rfl nofun rfl, isWordOf_xy 0x8 0x3 rfl nofun rfl,
    exec_logicResult rfl fun _ => BitVec.getLsbD_or, exec_logicResult rfl fun _ => BitVec.getLsbD_and,
    exec_logicResult rfl fun _ => ?_⟩
  rw [BitVec.getLsbD_xor, Bool.bne_eq_xor]

/-- Settles O38. -/
theorem addSetsCarry : Obligations.AddSetsCarry := by
  intro x y s
  obtain ⟨t, h, hok, hframe, hresult, hflag, hregs⟩ := exec_resultAndFlag (i := .op8XY4 x y) (s := s) rfl
  obtain ⟨hcarry, hno⟩ := flagByte_carryOut (a := getV s x) (b := getV s y)
  refine ⟨isWordOf_xy 0x8 0x4 rfl nofun rfl, t, h, hok, hframe, fun hx => ?_, fun hc => hflag.trans (hcarry hc),
    fun hc => hflag.trans (hno hc), hregs⟩
  rw [hresult hx, BitVec.toNat_add]

/-- Settles O39. -/
theorem subtractionsSetNotBorrow : Obligations.SubtractionsSetNotBorrow := by
  intro x y s
  exact ⟨isWordOf_xy 0x8 0x5 rfl nofun rfl, isWordOf_xy 0x8 0x7 rfl nofun rfl, exec_subtract rfl, exec_subtract rfl⟩

/-- Settles O40. -/
theorem shiftsByOne : Obligations.ShiftsByOne := by
  intro x y s a ha
  have ha : (shiftSource x y s).toNat = a := ha.symm
  refine ⟨isWordOf_xy 0x8 0x6 rfl nofun rfl, isWordOf_xy 0x8 0xE rfl nofun rfl, ?_, ?_⟩
  · obtain ⟨t, h, hok, hframe, hresult, hflag, hregs⟩ := exec_resultAndFlag (i := .op8XY6 x y) (s := s) rfl
    refine ⟨t, h, hok, hframe, fun hx => ?_, ?_, hregs⟩
    · rw [hresult hx, BitVec.toNat_ushiftRight, ha, Nat.shiftRight_one]
    · rw [hflag, flagByte_lowBit, ha]
  · obtain ⟨t, h, hok, hframe, hresult, hflag, hregs⟩ := exec_resultAndFlag (i := .op8XYE x y) (s := s) rfl
    refine ⟨t, h, hok, hframe, fun hx => ?_, ?_, hregs⟩
    · rw [hresult hx, BitVec.toNat_shiftLeft, ha, Nat.shiftLeft_eq]
    · rw [hflag, flagByte_highBit, ha]

end Sys2Proof.Safety
end

section
/-! SUPPORT. Control flow: the words of the jump and of the skips, the illegal words of their classes, a skip, and a return. -/

namespace Sys2Proof.Safety

open Sys2Proof Sys2Proof.Machine

variable {s : State} {i : Instr}

/-! ## The words (R96, R101) -/

theorem isWordOf_1NNN (nnn : Addr12) : IsWordOf (0x1000#16 ||| atNNN nnn) (.op1NNN nnn) :=
  isWordOf_of_encoding (Laws.Encoding.op1NNN nnn) rfl nofun (or_nnn 0x1#4 nnn).symm

/-- The word of an instruction with a register and an immediate: `c` in the class (R92). -/
theorem isWordOf_xnn (c : BitVec 4) {x : Reg} {nn : Byte} (hwf : wellFormed i = true) (hne : ∀ x y, i ≠ .opDXY0 x y)
    (he : encode i = c ++ x ++ nn) : IsWordOf (c.setWidth 16 <<< 12 ||| atX x ||| atNN nn) i :=
  isWordOf_of_encoding (Laws.Encoding.statement_holds i) hwf hne (he.trans (or_xnn c x nn).symm)

/-- In classes 5 and 9 the decoder refuses a word whose low nibble is not zero. -/
theorem decodeWord_of_class5_or_9_of_n_ne_zero {hires : Bool} (c x y : BitVec 4) {n : Nibble}
    (hc : c.toNat ∈ [0x5, 0x9]) (hn : n ≠ 0) :
    decodeWord hires (c.setWidth 16 <<< 12 ||| atX x ||| atY y ||| atN n) =
      .error (.invalidOpcode (c.setWidth 16 <<< 12 ||| atX x ||| atY y ||| atN n)) := by
  rw [or_xyn]
  apply (decodeWord_answers hires _).eq_error
  rw [illegalWord_of_class5_or_9 (by rwa [classOf_xyn]), fieldN_xyn, bne_iff_ne]
  exact fun h => hn (BitVec.eq_of_toNat_eq h)

/-! ## The skips (R144 to R147) -/

/-- An instruction that is a skip: `pc` goes a further 2 on where the condition makes it taken, and stays where it makes
it not taken. -/
theorem exec_skip {taken : Bool} {p q : Prop} (h : exec i s = complete (skipIf taken s)) (htaken : p → taken = true)
    (hnot : q → taken = false) :
    ∃ t, exec i s = .next t ∧ t.outcome = .ok ∧ OnlyChanges [.pc] s t ∧ (p → t.pc = s.pc + 2) ∧ (q → t.pc = s.pc) := by
  refine ⟨_, h, rfl, by simp [onlyChanges_refl], fun hp => ?_, fun hq => ?_⟩
  · rw [htaken hp]
    rfl
  · rw [hnot hq]
    rfl

/-! ## The return (R140) -/

theorem exec00EE_of_append {below : List Word} {a : Word} (h : s.stack = below ++ [a]) :
    exec .op00EE s = .next (report .ok (setPc a (dropTop s))) := by
  have htop : topOfStack s = some a := by simp [topOfStack, h]
  simp only [exec, exec00EE, htop, complete]

theorem dropTop_stack_of_append {below : List Word} {a : Word} (h : s.stack = below ++ [a]) :
    (dropTop s).stack = below := by
  rw [dropTop, h, List.dropLast_concat]

theorem exec00EE_of_empty (h : s.stack = []) : exec .op00EE s = .next (report .stackUnderflow s) := by
  simp only [exec, exec00EE, (topOfStack_none_iff s).2 h, raise]

/-- A return moves the entry pushed last into `pc` and writes nothing else. -/
theorem exec00EE_pops {below : List Word} {a : Word} (h : s.stack = below ++ [a]) :
    ∃ t, exec .op00EE s = .next t ∧ t.outcome = .ok ∧ t.pc = a ∧ t.stack = below ∧ OnlyChanges [.pc, .stack] s t :=
  ⟨_, exec00EE_of_append h, rfl, rfl, dropTop_stack_of_append h, by simp [onlyChanges_refl]⟩

end Sys2Proof.Safety
end

section
/-! SUPPORT. The statements about control flow (`spec/41_control_flow.md`). -/

namespace Sys2Proof.Safety

open Sys2Proof Sys2Proof.Machine

/-- Settles O29: the call leaves the advanced `pc` on top of the stack, and the return pops it. -/
theorem callThenReturnRestoresPc : Obligations.CallThenReturnRestoresPc := by
  intro nnn s t w hsp hcall
  obtain rfl := Host.Outcome.next.inj (hcall.symm.trans (exec2NNN_of_lt (Nat.lt_succ_of_le hsp)))
  obtain ⟨u, h, hok, hpc, hstack, -⟩ :=
    exec00EE_pops (s := setPc w (report .ok (setPc (addressOf nnn) (push s.pc s)))) rfl
  exact ⟨u, h, hok, hpc, hstack⟩

/-- Settles O27. -/
theorem returnPopsIntoPc : Obligations.ReturnPopsIntoPc :=
  ⟨isWordOf_of_encoding Laws.Encoding.op00EE rfl nofun rfl, fun _ _ _ => exec00EE_pops, fun _ => exec00EE_of_empty⟩

/-- Settles O30. -/
theorem jumpGoesToAddress : Obligations.JumpGoesToAddress :=
  fun nnn _ => ⟨isWordOf_1NNN nnn, _, rfl, rfl, addressOf_toNat nnn, exec_onlyChanges (i := .op1NNN nnn) rfl⟩

/-- Settles O31. -/
theorem skipsOnImmediate : Obligations.SkipsOnImmediate :=
  fun _ _ _ => ⟨isWordOf_xnn 0x3 rfl nofun rfl, isWordOf_xnn 0x4 rfl nofun rfl,
    exec_skip rfl beq_iff_eq.2 beq_eq_false_iff_ne.2, exec_skip rfl bne_iff_ne.2 bne_eq_false_iff_eq.2⟩

/-- Settles O32. -/
theorem skipsOnRegisters : Obligations.SkipsOnRegisters := by
  intro x y s
  refine ⟨isWordOf_xy 0x5 0x0 rfl nofun rfl, isWordOf_xy 0x9 0x0 rfl nofun rfl, fun n hn => ⟨?_, ?_⟩,
    exec_skip rfl beq_iff_eq.2 beq_eq_false_iff_ne.2, exec_skip rfl bne_iff_ne.2 bne_eq_false_iff_eq.2⟩
  · exact decodeWord_of_class5_or_9_of_n_ne_zero 0x5 x y (by decide) hn
  · exact decodeWord_of_class5_or_9_of_n_ne_zero 0x9 x y (by decide) hn

/-- Settles O34. -/
theorem exitIsSignalled : Obligations.ExitIsSignalled :=
  ⟨isWordOf_of_encoding Laws.Encoding.op00FD rfl nofun rfl, fun s => ⟨_, rfl, rfl, onlyChanges_report _ _ s⟩⟩

end Sys2Proof.Safety
end

section
/-! SUPPORT. Register loads: an instruction whose whole effect is one register write, and the statements about
6XNN, 8XY0 and 7XNN (`spec/42_alu.md`). -/

namespace Sys2Proof.Safety

open Sys2Proof Sys2Proof.Machine

/-- An instruction that is one register write and no flag (R160 to R162). -/
theorem exec_setV {s : State} {i : Instr} {x : Reg} {b : Byte} (h : exec i s = complete (setV x b s)) :
    ∃ t, exec i s = .next t ∧ t.outcome = .ok ∧ OnlyChanges [.v] s t ∧ getV t x = b ∧ KeepsRegsBut [x] s t :=
  ⟨_, h, rfl, by simp [onlyChanges_refl], getV_setV_self x b s,
    fun _ hk => getV_setV_ne (List.ne_of_not_mem_cons hk) b s⟩

/-- Settles O35: each load is one register write. -/
theorem loadsWriteTheRegister : Obligations.LoadsWriteTheRegister :=
  fun _ _ _ _ => ⟨isWordOf_xnn 0x6 rfl nofun rfl, isWordOf_xy 0x8 0x0 rfl nofun rfl, exec_setV rfl, exec_setV rfl⟩

/-- Settles O36: one register write of the sum, whose width makes it wrap. -/
theorem addImmediateWraps : Obligations.AddImmediateWraps := by
  intro x nn s
  obtain ⟨t, h, hok, hframe, hresult, hregs⟩ := exec_setV (i := .op7XNN x nn) (s := s) rfl
  refine ⟨isWordOf_xnn 0x7 rfl nofun rfl, t, h, hok, hframe, ?_, hregs⟩
  rw [hresult, BitVec.toNat_add]

end Sys2Proof.Safety
end

section
/-! SUPPORT. The index register and the flag registers: the words, an instruction whose whole effect is a write of `I`,
and the saving and restoring of registers (`spec/43_index_memory.md`). -/

namespace Sys2Proof.Safety

open Sys2Proof Sys2Proof.Machine

variable {s : State} {i : Instr} {x : Reg}

/-! ## The words (R101) -/

theorem isWordOf_ANNN (nnn : Addr12) : IsWordOf (0xA000#16 ||| atNNN nnn) (.opANNN nnn) :=
  isWordOf_of_encoding (Laws.Encoding.opANNN nnn) rfl nofun (or_nnn 0xA#4 nnn).symm

/-- The word of an instruction with one register: `c` in the class, `k` in the low byte (R92). -/
theorem isWordOf_x (c : BitVec 4) (k : Byte) (hwf : wellFormed i = true) (hne : ∀ x y, i ≠ .opDXY0 x y)
    (he : encode i = c ++ x ++ k) : IsWordOf ((c.setWidth 16 <<< 12 ||| k.setWidth 16) ||| atX x) i :=
  isWordOf_of_encoding (Laws.Encoding.statement_holds i) hwf hne (he.trans (or_x c x k).symm)

/-! ## The writes of `I` (R180 to R183) -/

/-- An instruction that is one write of `I`. -/
theorem exec_setI {w : Word} {n : Nat} (h : exec i s = complete (setI w s)) (hw : w.toNat = n) :
    ∃ t, exec i s = .next t ∧ t.outcome = .ok ∧ OnlyChanges [.i] s t ∧ t.i.toNat = n :=
  ⟨_, h, rfl, by simp [onlyChanges_refl], hw⟩

theorem glyphAddress_toNat {base stride : Nat} {b : Byte} (hfits : b.toNat * stride + base < 2 ^ 16) :
    (glyphAddress base stride b).toNat = b.toNat * stride + base :=
  (BitVec.toNat_ofNat _ 16).trans (Nat.mod_eq_of_lt hfits)

/-- Neither font's glyph address is reduced, whatever the byte: the largest is 255 * 5 + 0x50. -/
theorem glyph_fits (b : Byte) {base : Nat} (hbase : base ≤ 0x50) : b.toNat * 5 + base < 2 ^ 16 := by
  have hb := b.isLt
  omega

/-- FX1E's sum where 16 bits hold it. -/
theorem word_add_byte_toNat {w : Word} {b : Byte} (hfits : w.toNat + b.toNat ≤ 0xFFFF) :
    (w + b.setWidth 16).toNat = w.toNat + b.toNat := by
  rw [BitVec.toNat_add, BitVec.toNat_setWidth_of_le (by decide), Nat.mod_eq_of_lt (Nat.lt_succ_of_le hfits)]

theorem execFX1E_of_fits (hfits : s.i.toNat + (getV s x).toNat ≤ 0xFFFF) :
    exec (.opFX1E x) s = complete (setI (s.i + (getV s x).setWidth 16) s) :=
  if_neg (Nat.not_lt.2 hfits)

/-! ## The registers saved and restored (R187, R188) -/

theorem execFX75_saves (x : Reg) (s : State) :
    ∃ t, exec (.opFX75 x) s = .next t ∧ t.outcome = .ok ∧ OnlyChanges [.rpl] s t ∧
      ∀ k : Reg, getRpl t k = if k.toNat ≤ x.toNat then getV s k else getRpl s k :=
  ⟨_, rfl, rfl, exec_onlyChanges (i := .opFX75 x) rfl, fun k => getRpl_saveRpl x k s⟩

theorem execFX85_restores (x : Reg) (s : State) :
    ∃ t, exec (.opFX85 x) s = .next t ∧ t.outcome = .ok ∧ OnlyChanges [.v] s t ∧
      ∀ k : Reg, getV t k = if k.toNat ≤ x.toNat then getRpl s k else getV s k :=
  ⟨_, rfl, rfl, exec_onlyChanges (i := .opFX85 x) rfl, fun k => getV_restoreRpl x k s⟩

end Sys2Proof.Safety
end

section
/-! SUPPORT. The statements about the index register and the flag registers, and registers stored that come back. -/

namespace Sys2Proof.Safety

open Sys2Proof Sys2Proof.Machine

/-- Settles O48: FX65 finds in memory the bytes FX55 stored, and FX85 in the flag registers the bytes FX75 saved, since
neither place is among what became different in between. -/
theorem storedRegistersComeBack : Obligations.StoredRegistersComeBack := by
  constructor
  · intro x s t v pc hm hr hstore
    obtain ⟨-, u, h, hok, -, hloaded, -⟩ := registersAreLoaded x { t with v := v, pc := pc, i := s.i } hr
    refine ⟨u, h, hok, fun k hk => ?_⟩
    have hstored : readByte t (s.i.toNat + k.toNat) = getV s k := execFX55_stores hm hr hstore hk
    exact ((hloaded k).trans (if_pos hk)).trans hstored
  · intro x s t v pc i hsave
    obtain ⟨_, h75, -, -, hsaved⟩ := execFX75_saves x s
    obtain rfl := Host.Outcome.next.inj (hsave.symm.trans h75)
    obtain ⟨u, h, hok, -, hrestored⟩ := execFX85_restores x { t with v := v, pc := pc, i := i }
    refine ⟨u, h, hok, fun k hk => ?_⟩
    have hsaved : getRpl t k = getV s k := (hsaved k).trans (if_pos hk)
    exact ((hrestored k).trans (if_pos hk)).trans hsaved

/-- Settles O42. -/
theorem indexIsLoaded : Obligations.IndexIsLoaded := by
  intro nnn x s
  exact ⟨isWordOf_ANNN nnn, isWordOf_x 0xF 0x29 rfl nofun rfl, isWordOf_x 0xF 0x30 rfl nofun rfl,
    exec_setI rfl (addressOf_toNat nnn), exec_setI rfl (glyphAddress_toNat (glyph_fits _ (Nat.zero_le _))),
    exec_setI rfl (glyphAddress_toNat (glyph_fits _ (Nat.le_refl _)))⟩

/-- Settles O43, by whether 16 bits hold the sum. -/
theorem addToIndex : Obligations.AddToIndex := by
  intro x s
  refine ⟨isWordOf_x 0xF 0x1E rfl nofun rfl, fun hfits => ?_, fun hover => ?_⟩
  · exact exec_setI (execFX1E_of_fits hfits) (word_add_byte_toNat hfits)
  · exact exec_of_indexFault (i := .opFX1E x) (decide_eq_true hover)

/-- Settles O47. -/
theorem flagRegistersSaveAndRestore : Obligations.FlagRegistersSaveAndRestore :=
  fun x s => ⟨isWordOf_x 0xF 0x75 rfl nofun rfl, isWordOf_x 0xF 0x85 rfl nofun rfl, execFX75_saves x s,
    execFX85_restores x s⟩

end Sys2Proof.Safety
end

section
/-! SUPPORT. The bitmap: a clear, the scrolls as rotations, the switches of mode, and the statements about them
(`spec/44_display.md`). -/

namespace Sys2Proof.Safety

open Sys2Proof Sys2Proof.Machine

/-! ## The size of the screen, and an all-off bitmap (R200, R202) -/

theorem sixteen_le_cols (h : Bool) : 16 ≤ cols h := by cases h <;> decide

theorem sixteen_le_rows (h : Bool) : 16 ≤ rows h := by cases h <;> decide

theorem nibble_le_rows (n : Nibble) (h : Bool) : n.toNat ≤ rows h :=
  Nat.le_trans (Nat.le_of_lt n.isLt) (sixteen_le_rows h)

theorem four_le_screenLen (h : Bool) : 4 ≤ screenLen h := by cases h <;> decide

theorem blankScreen_getD (h : Bool) (k : Nat) : (blankScreen h).getD k false = false :=
  List.getElem?_getD_replicate_default_eq false (screenLen h) k

/-! ## Rotations (R203 to R205) -/

/-- Two rotations whose distances make up the whole length undo each other. -/
theorem rotatePix_rotatePix_of_add_eq {len d e : Nat} {pix : List Bool} (hlen : pix.length = len) (hde : d + e = len) :
    rotatePix len e (rotatePix len d pix) = pix := by
  have hrotate {l : List Bool} (k : Nat) (hl : l.length = len) : rotatePix len k l = l.rotate (len - k) :=
    (List.rotate_eq_drop_append_take (by omega)).symm
  have hsum : len - d + (len - e) = pix.length := by omega
  rw [hrotate e ((rotatePix_length len d pix).trans hlen), hrotate d hlen, List.rotate_rotate, hsum,
    List.rotate_length]

/-- `n` rows down, and round at the bottom, is `n` times the columns on in the linear bitmap (R200). -/
theorem pixelIndex_add_rows {h : Bool} {row col : Nat} (n : Nat) (hc : col < cols h) :
    pixelIndex h ((row + n) % rows h) col = (pixelIndex h row col + n * cols h) % screenLen h := by
  have hpos : pixelIndex h row col + n * cols h = col + cols h * (row + n) := by
    simp only [pixelIndex]
    ring
  rw [hpos, screenLen, Nat.mod_mul, Nat.add_mul_mod_self_left, Nat.mod_eq_of_lt hc,
    Nat.add_mul_div_left _ _ (cols_pos h), Nat.div_eq_of_lt hc, Nat.zero_add, pixelIndex]
  ring

theorem nibble_mul_cols_le (n : Nibble) (h : Bool) : n.toNat * cols h ≤ screenLen h :=
  Nat.mul_comm n.toNat (cols h) ▸ Nat.mul_le_mul_left (cols h) (nibble_le_rows n h)

/-- Settles O52: each scroll is a rotation, and whole rows are a distance in the linear bitmap. -/
theorem scrollsRotateTheBitmap : Obligations.ScrollsRotateTheBitmap := by
  intro n s hlen
  refine ⟨isWordOf_of_encoding (Laws.Encoding.op00CN n) rfl nofun (or_n 0x00C#12 n).symm,
    isWordOf_of_encoding Laws.Encoding.op00FB rfl nofun rfl, isWordOf_of_encoding Laws.Encoding.op00FC rfl nofun rfl,
    ⟨_, rfl, rfl, exec_onlyChanges (i := .op00CN n) rfl, rotatePix_length _ _ _, fun row col hr hc => ?_⟩,
    ⟨_, rfl, rfl, exec_onlyChanges (i := .op00FB) rfl, rotatePix_length _ _ _,
      fun k hk => rotatePix_getD hlen (four_le_screenLen _) hk⟩,
    ⟨_, rfl, rfl, exec_onlyChanges (i := .op00FC) rfl, rotatePix_length _ _ _, fun k hk => ?_⟩⟩
  · simp only [pixel, report_hires, report_pix, setPix_hires, setPix_pix]
    rw [pixelIndex_add_rows _ hc]
    exact rotatePix_getD hlen (nibble_mul_cols_le n _) (pixelIndex_lt hr hc)
  · rw [Nat.add_sub_assoc (four_le_screenLen _)]
    exact rotatePix_getD hlen (Nat.sub_le _ _) hk

/-- Settles O53: the two distances, 4 and the length less 4, make up the length. -/
theorem scrollRightAndLeftAreInverse : Obligations.ScrollRightAndLeftAreInverse := by
  intro s t hlen
  have hsum : 4 + (screenLen s.hires - 4) = screenLen s.hires := Nat.add_sub_of_le (four_le_screenLen _)
  refine ⟨fun h => ?_, fun h => ?_⟩ <;> obtain rfl := Host.Outcome.next.inj h
  · exact ⟨_, rfl, rotatePix_rotatePix_of_add_eq hlen hsum⟩
  · exact ⟨_, rfl, rotatePix_rotatePix_of_add_eq hlen ((Nat.add_comm _ _).trans hsum)⟩

/-- Settles O51. -/
theorem clearTurnsEveryPixelOff : Obligations.ClearTurnsEveryPixelOff :=
  ⟨isWordOf_of_encoding Laws.Encoding.op00E0 rfl nofun rfl, fun _ =>
    ⟨_, rfl, rfl, exec_onlyChanges (i := .op00E0) rfl, blankScreen_length _, fun _ _ _ _ => blankScreen_getD _ _⟩⟩

/-! ## The switches of mode (R206, R207) -/

/-- An instruction that goes to `mode` where the display is not in it, and otherwise leaves the display as it is. -/
theorem exec_switchMode {i : Instr} {s : State} (mode : Bool)
    (h : exec i s = complete (if s.hires = mode then s else enterMode mode s)) :
    ∃ t, exec i s = .next t ∧ t.outcome = .ok ∧ OnlyChanges [.hires, .pix] s t ∧ t.hires = mode ∧
      (s.hires = mode → t.pix = s.pix) ∧
      (s.hires = !mode → t.pix.length = screenLen mode ∧ ∀ k, t.pix.getD k false = false) := by
  refine ⟨_, h, rfl, ?_⟩
  by_cases hm : s.hires = mode
  · rw [if_pos hm]
    exact ⟨onlyChanges_report _ _ s, hm, fun _ => rfl, fun hne => by simp [hm] at hne⟩
  · rw [if_neg hm]
    exact ⟨by simp [onlyChanges_refl], rfl, fun he => absurd he hm,
      fun _ => ⟨blankScreen_length mode, blankScreen_getD mode⟩⟩

theorem exec00FE_eq (s : State) :
    exec .op00FE s = complete (if s.hires = false then s else enterMode false s) := by
  cases h : s.hires <;> simp [exec, exec00FE, h]

/-- Settles O54. -/
theorem modeSwitchErasesTheScreen : Obligations.ModeSwitchErasesTheScreen :=
  ⟨isWordOf_of_encoding Laws.Encoding.op00FE rfl nofun rfl, isWordOf_of_encoding Laws.Encoding.op00FF rfl nofun rfl,
    fun s => ⟨exec_switchMode false (exec00FE_eq s), exec_switchMode true rfl⟩⟩

end Sys2Proof.Safety
end

section
/-! SUPPORT. A draw: the points of a sprite, where they land, and the pixels plotted (`spec/44_display.md`). -/

namespace Sys2Proof.Safety

open Sys2Proof Sys2Proof.Machine

/-! ## The points of a sprite (R208, R209) -/

theorem mem_rowColumns {w c : Nat} {bits : BitVec w} :
    c ∈ rowColumns w bits ↔ c < w ∧ bits.getLsbD (w - 1 - c) = true := by
  simp [rowColumns]

/-- The points of a sprite whose row `r` is `f r`: its set bits, the most significant leftmost. -/
theorem mem_spritePoints {w k c r : Nat} {f : Nat → BitVec w} :
    (c, r) ∈ spritePoints w ((List.range k).map f) ↔ r < k ∧ c < w ∧ (f r).getLsbD (w - 1 - c) = true := by
  have hrow (r : Nat) (bits : BitVec w) : ((List.range k).map f)[r]? = some bits ↔ r < k ∧ f r = bits := by
    simp [List.getElem?_eq_some_iff]
  simp only [spritePoints, List.mem_flatMap, List.mem_zipIdx_iff_getElem?, List.mem_map, Prod.exists, Prod.mk.injEq,
    hrow, mem_rowColumns]
  constructor
  · rintro ⟨_, _, ⟨hr, rfl⟩, _, hc, rfl, rfl⟩
    exact ⟨hr, hc⟩
  · rintro ⟨hr, hc⟩
    exact ⟨f r, r, ⟨hr, rfl⟩, c, hc, rfl, rfl⟩

/-- No point stands twice among a sprite's points. -/
theorem spritePoints_nodup {w : Nat} (sprite : List (BitVec w)) : (spritePoints w sprite).Nodup := by
  refine List.nodup_flatMap.2 ⟨fun p _ => ?_, ?_⟩
  · have hcols : (rowColumns w p.1).Nodup := List.nodup_range.filter _
    exact hcols.map fun _ _ he => congrArg Prod.fst he
  · refine (List.pairwise_map.1 (List.nodup_zipIdx_map_snd sprite)).imp fun {p q} hne d hp hq => hne ?_
    obtain ⟨_, _, rfl⟩ := List.mem_map.1 hp
    obtain ⟨_, _, he⟩ := List.mem_map.1 hq
    exact (congrArg Prod.snd he).symm

/-! ## Where the points land (R211) -/

theorem plotTarget_wrap_eq_some {h : Bool} {x0 y0 dx dy row col : Nat} :
    plotTarget h true x0 y0 dx dy = some (row, col) ↔ (x0 + dx) % cols h = col ∧ (y0 + dy) % rows h = row := by
  simp [plotTarget, and_comm]

theorem plotTarget_clip_eq_some {h : Bool} {x0 y0 dx dy row col : Nat} :
    plotTarget h false x0 y0 dx dy = some (row, col) ↔
      x0 + dx = col ∧ y0 + dy = row ∧ col < cols h ∧ row < rows h := by
  simp only [plotTarget, Bool.false_eq_true, if_false, Option.ite_none_left_eq_some, Option.some.injEq, Prod.mk.injEq]
  omega

/-- On the screen, landing is what the plot's target says. -/
theorem landsOn_iff {s : State} {x y : Reg} {dx dy row col : Nat} (hr : row < rows s.hires) (hc : col < cols s.hires) :
    LandsOn s x y dx dy row col ↔
      plotTarget s.hires s.quirks.wrap (startColumn x s) (startRow y s) dx dy = some (row, col) := by
  simp only [LandsOn, startColumn, startRow]
  cases s.quirks.wrap with
  | true => exact plotTarget_wrap_eq_some.symm
  | false => simp [plotTarget_clip_eq_some, hr, hc]

/-- Two points less than a screen apart that land on one pixel are one point, wrapped or not. -/
theorem plotTarget_inj {h wrap : Bool} {x0 y0 dx dy dx' dy' : Nat} {p : Nat × Nat} (hx : dx < cols h) (hy : dy < rows h)
    (hx' : dx' < cols h) (hy' : dy' < rows h) (hp : plotTarget h wrap x0 y0 dx dy = some p)
    (hp' : plotTarget h wrap x0 y0 dx' dy' = some p) : dx = dx' ∧ dy = dy' := by
  cases wrap with
  | true =>
    obtain ⟨hcol, hrow⟩ := plotTarget_wrap_eq_some.1 hp
    obtain ⟨hcol', hrow'⟩ := plotTarget_wrap_eq_some.1 hp'
    exact ⟨(Nat.ModEq.add_left_cancel' x0 (hcol.trans hcol'.symm)).eq_of_lt_of_lt hx hx',
      (Nat.ModEq.add_left_cancel' y0 (hrow.trans hrow'.symm)).eq_of_lt_of_lt hy hy'⟩
  | false =>
    obtain ⟨hcol, hrow, -⟩ := plotTarget_clip_eq_some.1 hp
    obtain ⟨hcol', hrow', -⟩ := plotTarget_clip_eq_some.1 hp'
    exact ⟨Nat.add_left_cancel (hcol.trans hcol'.symm), Nat.add_left_cancel (hrow.trans hrow'.symm)⟩

/-- The pixels a list of points lands on, those clipped left out. -/
def plotTargets (h wrap : Bool) (x0 y0 : Nat) (points : List (Nat × Nat)) : List (Nat × Nat) :=
  points.filterMap fun d => plotTarget h wrap x0 y0 d.1 d.2

theorem plotTargets_nodup {h wrap : Bool} {x0 y0 : Nat} {points : List (Nat × Nat)} (hnodup : points.Nodup)
    (hbox : ∀ d ∈ points, d.1 < cols h ∧ d.2 < rows h) : (plotTargets h wrap x0 y0 points).Nodup := by
  refine List.pairwise_filterMap.2 (hnodup.pairwise_of_forall_ne fun d hd e he hne p hp q hq hpq => hne ?_)
  obtain ⟨hdx, hdy⟩ := hbox d hd
  obtain ⟨hex, hey⟩ := hbox e he
  obtain ⟨hfst, hsnd⟩ := plotTarget_inj hdx hdy hex hey hp (hpq ▸ hq)
  exact Prod.ext hfst hsnd

/-- The sprite of `k` rows of `w` columns, row `r` being `f r`, has a set bit that lands on `(row, col)`: `Covers8` and
`Covers16` at once. -/
def CoversRows (s : State) (x y : Reg) (w k : Nat) (f : Nat → BitVec w) (row col : Nat) : Prop :=
  ∃ r c, r < k ∧ c < w ∧ (f r).getLsbD (w - 1 - c) = true ∧ LandsOn s x y c r row col

theorem covers8_eq (s : State) (x y : Reg) (n : Nibble) :
    Covers8 s x y n = CoversRows s x y 8 n.toNat fun r => readByte s (s.i.toNat + r) := rfl

theorem covers16_eq (s : State) (x y : Reg) :
    Covers16 s x y = CoversRows s x y 16 16 fun r =>
      readByte s (s.i.toNat + 2 * r) ++ readByte s (s.i.toNat + 2 * r + 1) := rfl

/-- A sprite covers the pixels of the screen that its points land on. -/
theorem coversRows_iff {s : State} {x y : Reg} {w k row col : Nat} {f : Nat → BitVec w} (hr : row < rows s.hires)
    (hc : col < cols s.hires) :
    CoversRows s x y w k f row col ↔ (row, col) ∈ plotTargets s.hires s.quirks.wrap (startColumn x s) (startRow y s)
      (spritePoints w ((List.range k).map f)) := by
  simp only [CoversRows, plotTargets, List.mem_filterMap, Prod.exists, mem_spritePoints, ← landsOn_iff hr hc]
  constructor
  · rintro ⟨r, c, hrk, hcw, hbit, hlands⟩
    exact ⟨c, r, ⟨hrk, hcw, hbit⟩, hlands⟩
  · rintro ⟨c, r, ⟨hrk, hcw, hbit⟩, hlands⟩
    exact ⟨r, c, hrk, hcw, hbit, hlands⟩

/-! ## Plotting (R201, R208) -/

/-- Each pixel listed was turned over, no other was, and `hit` says whether one of them was on. -/
structure Toggles (h : Bool) (targets : List (Nat × Nat)) (pix pix' : List Bool) (hit : Bool) : Prop where
  /-- The bitmap keeps its size. -/
  length : pix'.length = pix.length
  /-- Each pixel of the screen is exclusive-or'ed with whether it is listed (R201). -/
  pixels : ∀ row col, row < rows h → col < cols h → (pix'.getD (pixelIndex h row col) false = true ↔
    Xor (pix.getD (pixelIndex h row col) false = true) ((row, col) ∈ targets))
  /-- `hit` is the collision flag (R208). -/
  collision : hit = true ↔ ∃ row col, row < rows h ∧ col < cols h ∧ (row, col) ∈ targets ∧
    pix.getD (pixelIndex h row col) false = true

theorem Toggles.nil (h : Bool) (pix : List Bool) : Toggles h [] pix pix false :=
  ⟨rfl, by simp [Xor], by simp⟩

/-- A pixel of the screen after one of them was written. -/
theorem getD_set_pixelIndex {h : Bool} {row col row' col' : Nat} {pix : List Bool} (b : Bool)
    (hlen : pix.length = screenLen h) (hr : row < rows h) (hc : col < cols h) (hc' : col' < cols h) :
    (pix.set (pixelIndex h row col) b).getD (pixelIndex h row' col') false =
      if row' = row ∧ col' = col then b else pix.getD (pixelIndex h row' col') false := by
  have hin : pixelIndex h row col < pix.length := hlen ▸ pixelIndex_lt hr hc
  by_cases he : row' = row ∧ col' = col
  · obtain ⟨rfl, rfl⟩ := he
    simp [hin]
  · have hne : pixelIndex h row col ≠ pixelIndex h row' col' := fun e =>
      have ⟨er, ec⟩ := pixelIndex_inj hc hc' e
      he ⟨er.symm, ec.symm⟩
    simp [he, hne]

/-- Turning one more pixel over, that is not among the others. -/
theorem Toggles.cons {h : Bool} {row col : Nat} {targets : List (Nat × Nat)} {pix pix' : List Bool} {hit : Bool}
    (hlen : pix.length = screenLen h) (hr : row < rows h) (hc : col < cols h) (hnew : (row, col) ∉ targets)
    (hrest : Toggles h targets
      (pix.set (pixelIndex h row col) (!pix.getD (pixelIndex h row col) false)) pix' hit) :
    Toggles h ((row, col) :: targets) pix pix' (pix.getD (pixelIndex h row col) false || hit) := by
  obtain ⟨hlength, hpixels, hcollision⟩ := hrest
  refine ⟨hlength.trans List.length_set, fun row' col' hr' hc' => ?_, ?_⟩
  · rw [hpixels row' col' hr' hc', getD_set_pixelIndex _ hlen hr hc hc']
    by_cases he : row' = row ∧ col' = col
    · obtain ⟨rfl, rfl⟩ := he
      simp [hnew, Xor]
    · simp [he]
  · rw [Bool.or_eq_true, hcollision]
    constructor
    · rintro (hon | ⟨row', col', hr', hc', hmem, hon⟩)
      · exact ⟨row, col, hr, hc, List.mem_cons_self, hon⟩
      · have hne : ¬(row' = row ∧ col' = col) := fun ⟨er, ec⟩ => hnew (er ▸ ec ▸ hmem)
        rw [getD_set_pixelIndex _ hlen hr hc hc', if_neg hne] at hon
        exact ⟨row', col', hr', hc', List.mem_cons_of_mem _ hmem, hon⟩
    · rintro ⟨row', col', hr', hc', hmem, hon⟩
      by_cases he : row' = row ∧ col' = col
      · obtain ⟨rfl, rfl⟩ := he
        exact .inl hon
      · refine .inr ⟨row', col', hr', hc', by simpa [he] using hmem, ?_⟩
        rwa [getD_set_pixelIndex _ hlen hr hc hc', if_neg he]

/-- Plotting points that land on different pixels turns each of these pixels over once. -/
theorem plotAll_toggles {h wrap : Bool} {x0 y0 : Nat} {points : List (Nat × Nat)} {pix : List Bool}
    (hlen : pix.length = screenLen h) (hnodup : (plotTargets h wrap x0 y0 points).Nodup) :
    ∃ pix' hit, plotAll h wrap x0 y0 points pix = some (pix', hit) ∧
      Toggles h (plotTargets h wrap x0 y0 points) pix pix' hit := by
  induction points generalizing pix with
  | nil => exact ⟨pix, false, rfl, .nil h pix⟩
  | cons d rest ih =>
    cases ht : plotTarget h wrap x0 y0 d.1 d.2 with
    | none =>
      have htargets : plotTargets h wrap x0 y0 (d :: rest) = plotTargets h wrap x0 y0 rest :=
        List.filterMap_cons_none ht
      rw [htargets] at hnodup ⊢
      obtain ⟨pix', hit, hplot, htoggles⟩ := ih hlen hnodup
      exact ⟨pix', hit, by simp [plotAll, plot, ht, hplot], htoggles⟩
    | some p =>
      obtain ⟨hr, hc⟩ := plotTarget_inRange ht
      have htargets : plotTargets h wrap x0 y0 (d :: rest) = p :: plotTargets h wrap x0 y0 rest :=
        List.filterMap_cons_some ht
      rw [htargets] at hnodup ⊢
      obtain ⟨hnew, hnodup⟩ := List.nodup_cons.1 hnodup
      obtain ⟨pix', hit, hplot, htoggles⟩ := ih (List.length_set.trans hlen) hnodup
      exact ⟨pix', _, by simp only [plotAll, plot, ht, toggle_eq hr hc, hplot], htoggles.cons hlen hr hc hnew⟩

/-! ## The draw (R208, R209) -/

/-- The collision flag and the pixels, as a draw leaves them. -/
theorem drawnBy_of_toggles {s : State} {covers : Nat → Nat → Prop} {targets : List (Nat × Nat)} {pix : List Bool}
    {hit : Bool} (h : Toggles s.hires targets s.pix pix hit)
    (hcovers : ∀ row col, row < rows s.hires → col < cols s.hires → (covers row col ↔ (row, col) ∈ targets)) :
    DrawnBy covers s (report .ok (setVF (flagByte hit) (setPix pix s))) := by
  obtain ⟨hlength, hpixels, hcollision⟩ := h
  refine ⟨hlength, fun row col hr hc => ?_, ?_⟩
  · rw [hcovers row col hr hc]
    exact hpixels row col hr hc
  · have hflag : getV (report .ok (setVF (flagByte hit) (setPix pix s))) regF = flagByte hit :=
      getV_setV_self regF _ _
    rw [hflag]
    cases hit with
    | true =>
      obtain ⟨row, col, hr, hc, hmem, hon⟩ := hcollision.1 rfl
      exact .inl ⟨rfl, row, col, hr, hc, (hcovers row col hr hc).2 hmem, hon⟩
    | false =>
      refine .inr ⟨rfl, fun row col hr hc hcov => Bool.eq_false_iff.2 fun hon => ?_⟩
      exact Bool.false_ne_true (hcollision.2 ⟨row, col, hr, hc, (hcovers row col hr hc).1 hcov, hon⟩)

/-- A draw of `k` rows of `w` columns that fit the screen, row `r` being `f r`, with its bytes in memory. -/
theorem drawSprite_draws {s : State} {nbytes w k : Nat} {f : Nat → BitVec w} (x y : Reg)
    (hbytes : s.i.toNat + nbytes ≤ 4096) (hlen : s.pix.length = screenLen s.hires) (hw : w ≤ cols s.hires)
    (hk : k ≤ rows s.hires) :
    ∃ t, drawSprite nbytes (spritePoints w ((List.range k).map f)) x y s = .next t ∧ t.outcome = .ok ∧
      DrawnBy (CoversRows s x y w k f) s t := by
  have hbox : ∀ d ∈ spritePoints w ((List.range k).map f), d.1 < cols s.hires ∧ d.2 < rows s.hires := by
    intro d hd
    obtain ⟨hr, hc, -⟩ := mem_spritePoints.1 hd
    exact ⟨Nat.lt_of_lt_of_le hc hw, Nat.lt_of_lt_of_le hr hk⟩
  obtain ⟨pix, hit, hplot, htoggles⟩ := plotAll_toggles (wrap := s.quirks.wrap) (x0 := startColumn x s)
    (y0 := startRow y s) hlen (plotTargets_nodup (spritePoints_nodup _) hbox)
  have hrange : outOfRange s.i.toNat nbytes = false := (not_outOfRange_iff _ _).2 hbytes
  refine ⟨_, by simp only [drawSprite, hrange, hplot, Bool.false_eq_true, if_false, complete_eq], rfl,
    drawnBy_of_toggles htoggles fun _ _ => coversRows_iff⟩

theorem execDXYN_draws (x y : Reg) {n : Nibble} {s : State} (hlen : s.pix.length = screenLen s.hires)
    (hr : s.i.toNat + n.toNat - 1 ≤ 4095) :
    ∃ t, exec (.opDXYN x y n) s = .next t ∧ t.outcome = .ok ∧ DrawnBy (Covers8 s x y n) s t := by
  have hcols : 8 ≤ cols s.hires := Nat.le_trans (by decide) (sixteen_le_cols _)
  rw [covers8_eq]
  exact drawSprite_draws x y (by omega) hlen hcols (nibble_le_rows n _)

theorem execDXY0_draws (x y : Reg) {s : State} (hh : s.hires = true) (hlen : s.pix.length = 8192)
    (hr : s.i.toNat + 31 ≤ 4095) :
    ∃ t, exec (.opDXY0 x y) s = .next t ∧ t.outcome = .ok ∧ DrawnBy (Covers16 s x y) s t := by
  have hexec : exec (.opDXY0 x y) s = drawSprite 32 (spritePoints 16 (sprite16 s)) x y s := if_pos hh
  rw [hexec, covers16_eq]
  exact drawSprite_draws x y (by omega) (hlen.trans (congrArg screenLen hh).symm) (sixteen_le_cols _)
    (sixteen_le_rows _)

/-- An instruction that may write one register keeps the others (R21). -/
theorem keepsRegsBut_of_mayWriteReg {i : Instr} {s t : State} {r : Reg}
    (hi : ∀ k, mayWriteReg s.quirks k i = (k == r)) (h : exec i s = .next t) : KeepsRegsBut [r] s t := by
  intro k hk
  have hne : k ≠ r := List.ne_of_not_mem_cons hk
  exact exec_keeps_getV h ((hi k).trans (beq_eq_false_iff_ne.2 hne))

/-! ## A draw repeated (R208, C5) -/

/-- What DXYN covers depends on the registers `x` and `y`, memory, `I`, the mode and the straps. -/
theorem covers8_congr {x y : Reg} {n : Nibble} {s t : State} (hx : getV t x = getV s x) (hy : getV t y = getV s y)
    (hm : ∀ a, readByte t a = readByte s a) (hi : t.i = s.i) (hh : t.hires = s.hires) (hq : t.quirks = s.quirks) :
    Covers8 t x y n = Covers8 s x y n := by
  funext row col
  simp only [Covers8, LandsOn, hx, hy, hm, hi, hh, hq]

/-- Bitmaps of the mode's size that agree on every pixel of the screen are equal (R200). -/
theorem pix_eq_of_pixel_eq {s t : State} (hh : t.hires = s.hires) (hs : s.pix.length = screenLen s.hires)
    (hlen : t.pix.length = s.pix.length)
    (hpixel : ∀ row col, row < rows s.hires → col < cols s.hires → (pixel t row col = true ↔ pixel s row col = true)) :
    t.pix = s.pix := by
  refine List.ext_getElem hlen fun k hkt hks => ?_
  have hcol : k % cols s.hires < cols s.hires := Nat.mod_lt _ (cols_pos _)
  have hrow : k / cols s.hires < rows s.hires := Nat.div_lt_of_lt_mul (hks.trans_eq hs)
  have hindex : pixelIndex s.hires (k / cols s.hires) (k % cols s.hires) = k := Nat.div_add_mod' _ _
  have hk := Bool.eq_iff_iff.2 (hpixel _ _ hrow hcol)
  simpa [pixel, hh, hindex, hkt, hks] using hk

section DrawnTwice

variable {covers : Nat → Nat → Prop} {s t u : State}

/-- Two equal draws turn each pixel over twice or not at all. -/
theorem DrawnBy.pix_eq_of_twice (hs : s.pix.length = screenLen s.hires) (ht : t.hires = s.hires)
    (hu : u.hires = t.hires) (h : DrawnBy covers s t) (h' : DrawnBy covers t u) : u.pix = s.pix := by
  obtain ⟨hlen, hpixels, -⟩ := h
  obtain ⟨hlen', hpixels', -⟩ := h'
  refine pix_eq_of_pixel_eq (hu.trans ht) hs (hlen'.trans hlen) fun row col hr hc => ?_
  rw [hpixels' row col (ht ▸ hr) (ht ▸ hc), hpixels row col hr hc]
  by_cases hcov : covers row col <;> simp [Xor, hcov]

/-- Where the area began off, the first draw finds no pixel on and the second finds all that the first turned on. -/
theorem DrawnBy.flags_of_twice (ht : t.hires = s.hires) (h : DrawnBy covers s t) (h' : DrawnBy covers t u)
    (hoff : ∀ row col, row < rows s.hires → col < cols s.hires → covers row col → pixel s row col = false)
    (hsome : ∃ row col, row < rows s.hires ∧ col < cols s.hires ∧ covers row col) :
    getV t regF = 0 ∧ getV u regF = 1 := by
  obtain ⟨-, hpixels, hflag⟩ := h
  obtain ⟨-, -, hflag'⟩ := h'
  constructor
  · obtain ⟨-, row, col, hr, hc, hcov, hon⟩ | ⟨hzero, -⟩ := hflag
    · exact absurd ((hoff row col hr hc hcov).symm.trans hon) Bool.false_ne_true
    · exact hzero
  · obtain ⟨row, col, hr, hc, hcov⟩ := hsome
    have hon : pixel t row col = true := (hpixels row col hr hc).2 (by simp [Xor, hcov, hoff row col hr hc hcov])
    obtain ⟨hone, -⟩ | ⟨-, hnone⟩ := hflag'
    · exact hone
    · exact absurd ((hnone row col (ht ▸ hr) (ht ▸ hc) hcov).symm.trans hon) Bool.false_ne_true

end DrawnTwice

end Sys2Proof.Safety
end

section
/-! SUPPORT. The statements about the two draws and about a draw repeated. -/

namespace Sys2Proof.Safety

open Sys2Proof Sys2Proof.Machine

/-- Settles O55. -/
theorem spriteOfEightColumnsIsDrawn : Obligations.SpriteOfEightColumnsIsDrawn := by
  intro x y n s hn hlen hr
  have hword : encode (.opDXYN x y n) = 0xD000#16 ||| atX x ||| atY y ||| atN n := (or_xyn 0xD#4 x y n).symm
  obtain ⟨t, h, hok, hdrawn⟩ := execDXYN_draws x y hlen hr
  exact ⟨isWordOf_of_encoding (Laws.Encoding.opDXYN x y n) (bne_iff_ne.2 hn) nofun hword, t, h, hok,
    exec_onlyChanges h, keepsRegsBut_of_mayWriteReg (fun _ => rfl) h, hdrawn⟩

/-- Settles O56. -/
theorem spriteOfSixteenColumnsIsDrawn : Obligations.SpriteOfSixteenColumnsIsDrawn := by
  intro x y s hh hlen hr
  have hword : encode (.opDXY0 x y) = 0xD000#16 ||| atX x ||| atY y := (or_xy 0xD#4 0x0#4 x y).symm
  obtain ⟨hdecode, -⟩ := Laws.Encoding.opDXY0 x y rfl
  obtain ⟨t, h, hok, hdrawn⟩ := execDXY0_draws x y hh hlen hr
  exact ⟨hword, hword ▸ hdecode, t, h, hok, exec_onlyChanges h, keepsRegsBut_of_mayWriteReg (fun _ => rfl) h, hdrawn⟩

/-- Settles O57: the first draw moves neither the sprite nor the place it is drawn at, so the second covers the same
pixels. -/
theorem drawingTwiceRestoresTheBitmap : Obligations.DrawingTwiceRestoresTheBitmap := by
  intro x y n s t pc hx hy hn hlen hr h
  obtain ⟨-, _, h1, -, hframe, hregs, hdrawn⟩ := spriteOfEightColumnsIsDrawn x y n s hn hlen hr
  obtain rfl := Host.Outcome.next.inj (h.symm.trans h1)
  have ⟨hsize, _⟩ := hdrawn
  have hi : t.i = s.i := hframe .i (by decide)
  have hh : t.hires = s.hires := hframe .hires (by decide)
  have hcovers : Covers8 (setPc pc t) x y n = Covers8 s x y n :=
    covers8_congr (hregs x (by simpa using hx)) (hregs y (by simpa using hy)) (hframe .mem (by decide)) hi hh
      (hframe .quirks (by decide))
  have hlen' : t.pix.length = screenLen t.hires := hh ▸ hsize.trans hlen
  obtain ⟨-, u, h2, -, hframe', -, hdrawn'⟩ :=
    spriteOfEightColumnsIsDrawn x y n (setPc pc t) hn hlen' (hi ▸ hr)
  rw [hcovers] at hdrawn'
  exact ⟨u, h2, hdrawn.pix_eq_of_twice hlen hh (hframe' .hires (by decide)) hdrawn',
    hdrawn.flags_of_twice hh hdrawn'⟩

end Sys2Proof.Safety
end

section
/-! SUPPORT. The timers under a Tick and under a Step, the latches under a KeyEvent, and a skip on a key that exists
(`spec/45_keys_timers.md`). -/

namespace Sys2Proof.Safety

open Sys2Proof Sys2Proof.Machine

variable {s t : State}

/-! ## Tick and KeyEvent (R236, R237) -/

theorem onlyChanges_tick (s : State) : OnlyChanges [.dt, .st] s (tick s) := by
  simp [tick, onlyChanges_refl]

theorem tick_st_of_zero (h : s.st = 0) : (tick s).st = 0 := if_pos h

theorem keyDown_keyEvent (k : BitVec 4) (pressed : Bool) (s : State) (j : Nat) :
    keyDown (keyEvent k pressed s) j = if j = k.toNat then pressed else keyDown s j := by
  simp only [keyDown, keyEvent, Vector.toList_set, List.getD_eq_getElem?_getD]
  split
  · next hj =>
    subst hj
    simp [k.isLt]
  · next hj => rw [List.getElem?_set_ne (Ne.symm hj)]

theorem onlyChanges_keyEvent (k : BitVec 4) (pressed : Bool) (s : State) :
    OnlyChanges [.keys] s (keyEvent k pressed s) := by
  intro c hc
  cases c with
  | keys => exact absurd (List.mem_singleton_self _) hc
  | mem | v | rpl => exact fun _ => rfl
  | _ => exact rfl

/-! ## The sound level (R238) -/

theorem soundLevel_iff : soundLevel s = true ↔ s.st ≠ 0 := bne_iff_ne

theorem soundLevel_congr (h : t.st = s.st) : soundLevel t = soundLevel s := by
  simp only [soundLevel, h]

theorem st_not_mem_writesOf {i : Instr} (hi : ∀ x, i ≠ .opFX18 x) : Component.st ∉ writesOf i := by
  cases i with
  | opFX18 x => exact absurd rfl (hi x)
  | _ => simp [writesOf]

/-- A Step that runs no FX18, a faulting one too, leaves the sound timer. -/
theorem step_keeps_st (hn : ∀ x, nextInstr s ≠ some (.opFX18 x)) (h : step s = .next t) : t.st = s.st := by
  obtain ⟨-, -, rfl⟩ | ⟨op, e, -, -, -, rfl⟩ | ⟨op, i, -, -, hi, hx⟩ := step_cases h
  · rfl
  · rfl
  · exact exec_onlyChanges hx .st (st_not_mem_writesOf fun x e => hn x (e ▸ hi))

/-! ## The skips on a key (R230, R231) -/

theorem keyIndex_eq_some {x : Reg} (h : (getV s x).toNat ≤ 15) : keyIndex x s = some (getV s x).toNat :=
  if_neg (Nat.not_lt.2 h)

theorem execEX9E_of_le {x : Reg} (h : (getV s x).toNat ≤ 15) :
    exec (.opEX9E x) s = complete (skipIf (keyDown s (getV s x).toNat) s) := by
  simp only [exec, execEX9E, keyIndex_eq_some h]

theorem execEXA1_of_le {x : Reg} (h : (getV s x).toNat ≤ 15) :
    exec (.opEXA1 x) s = complete (skipIf (!keyDown s (getV s x).toNat) s) := by
  simp only [exec, execEXA1, keyIndex_eq_some h]

theorem skipIf_pc (taken : Bool) (s : State) : (skipIf taken s).pc = if taken then s.pc + 2 else s.pc := by
  rw [skipIf_eq, setPc_pc]

theorem skipIf_not_pc (taken : Bool) (s : State) : (skipIf (!taken) s).pc = if taken then s.pc else s.pc + 2 := by
  cases taken <;> rfl

end Sys2Proof.Safety
end

section
/-! SUPPORT. The statements about the keys and the timers (`spec/45_keys_timers.md`). -/

namespace Sys2Proof.Safety

open Sys2Proof Sys2Proof.Machine

/-- Settles O25: FX18 is the only instruction with the sound timer in its row of R76, and a Tick leaves a timer at zero
there. -/
theorem soundLevelFollowsTheSoundTimer : Obligations.SoundLevelFollowsTheSoundTimer := by
  refine ⟨fun _ => soundLevel_iff, fun s t h hne => ?_, fun s hon => ?_⟩
  · by_contra hn
    exact hne (soundLevel_congr (step_keeps_st (not_exists.1 hn) h))
  · exact soundLevel_iff.2 fun hzero => soundLevel_iff.1 hon (tick_st_of_zero hzero)

/-- Settles O23. -/
theorem tickCountsBothTimersDown : Obligations.TickCountsBothTimersDown :=
  fun s => ⟨countDown_toNat s.dt, countDown_toNat s.st, onlyChanges_tick s⟩

/-- Settles O24. -/
theorem keyEventWritesOneLatch : Obligations.KeyEventWritesOneLatch :=
  fun k pressed s => ⟨keyDown_keyEvent k pressed s, onlyChanges_keyEvent k pressed s⟩

/-- Settles O58, by whether `VX` is the number of a key. -/
theorem skipsOnKey : Obligations.SkipsOnKey := by
  intro x s
  refine ⟨isWordOf_x 0xE 0x9E rfl nofun rfl, isWordOf_x 0xE 0xA1 rfl nofun rfl, fun hkey => ⟨?_, ?_⟩,
    fun habove => ⟨?_, ?_⟩⟩
  · have h := execEX9E_of_le hkey
    exact ⟨_, h, rfl, exec_onlyChanges h, skipIf_pc _ s⟩
  · have h := execEXA1_of_le hkey
    exact ⟨_, h, rfl, exec_onlyChanges h, skipIf_not_pc _ s⟩
  · exact exec_of_indexFault (i := .opEX9E x) (decide_eq_true habove)
  · exact exec_of_indexFault (i := .opEXA1 x) (decide_eq_true habove)

/-- Settles O59. -/
theorem timersAreReadAndWritten : Obligations.TimersAreReadAndWritten :=
  fun x _ => ⟨isWordOf_x 0xF 0x07 rfl nofun rfl, isWordOf_x 0xF 0x15 rfl nofun rfl, isWordOf_x 0xF 0x18 rfl nofun rfl,
    exec_setV rfl, ⟨_, rfl, rfl, exec_onlyChanges (i := .opFX15 x) rfl, rfl⟩,
    ⟨_, rfl, rfl, exec_onlyChanges (i := .opFX18 x) rfl, rfl⟩⟩

end Sys2Proof.Safety
end

section
/-! SUPPORT. The outcome of an instruction from the state it finds, of every instruction in every state; DXY0 in low-res; a Step in a schedule. -/

namespace Sys2Proof.Safety

open Sys2Proof Sys2Proof.Machine

variable {s t : State} {i : Instr}

/-! ## The outcome of an instruction (R250 to R255) -/

/-- What an instruction reports where no row of R254 holds: the stack's two faults, Exit, DXY0 in low-res, else `Ok`. -/
def outcomeInRange (s : State) : Instr → StepOutcome
  | .op00EE => if s.sp = 0 then .stackUnderflow else .ok
  | .op2NNN _ => if 16 ≤ s.sp then .stackOverflow else .ok
  | .op00FD => .exit
  | .opDXY0 x y => if s.hires then .ok else .invalidOpcode (encode (.opDXY0 x y))
  | _ => .ok

/-- What an instruction reports: its range test comes before all else it does (R126). -/
def outcomeOf (s : State) (i : Instr) : StepOutcome :=
  if indexFault s i then .indexOutOfRange else outcomeInRange s i

theorem drawSprite_completes {n : Nat} (points : List (Nat × Nat)) (x y : Reg) (hr : s.i.toNat + n ≤ 4096) :
    ∃ t, drawSprite n points x y s = .next t ∧ t.outcome = .ok := by
  obtain ⟨hout, -⟩ | ⟨-, pix, hit, -, -, hd⟩ := drawSprite_eq n points x y s
  · cases hout.symm.trans ((not_outOfRange_iff _ _).2 hr)
  · exact ⟨_, hd, rfl⟩

/-- A return pops or reports the empty stack (R140). -/
theorem exec00EE_outcome (s : State) : ∃ t, exec .op00EE s = .next t ∧ t.outcome = outcomeInRange s .op00EE := by
  by_cases hempty : s.sp = 0
  · exact ⟨_, exec00EE_of_empty (List.length_eq_zero_iff.1 hempty), (if_pos hempty).symm⟩
  · have hne : s.stack ≠ [] := mt List.length_eq_zero_iff.2 hempty
    have hstack : s.stack = s.stack.dropLast ++ [s.stack.getLast hne] := (List.dropLast_concat_getLast hne).symm
    exact ⟨_, exec00EE_of_append hstack, (if_neg hempty).symm⟩

/-- A call pushes or reports the full stack (R143). -/
theorem exec2NNN_outcome (nnn : Addr12) (s : State) :
    ∃ t, exec (.op2NNN nnn) s = .next t ∧ t.outcome = outcomeInRange s (.op2NNN nnn) := by
  by_cases hfull : 16 ≤ s.sp
  · exact ⟨_, exec2NNN_of_full hfull, (if_pos hfull).symm⟩
  · exact ⟨_, exec2NNN_of_lt (Nat.not_le.1 hfull), (if_neg hfull).symm⟩

/-- DXY0 draws in high-res and is no instruction in low-res (R97, R209). -/
theorem execDXY0_outcome {x y : Reg} (hr : indexFault s (.opDXY0 x y) = false) :
    ∃ t, exec (.opDXY0 x y) s = .next t ∧ t.outcome = outcomeInRange s (.opDXY0 x y) := by
  cases hh : s.hires with
  | false => exact ⟨_, if_neg (Bool.eq_false_iff.1 hh), by simp [outcomeInRange, hh]⟩
  | true =>
    have hfits : ¬4095 < s.i.toNat + 31 := by simpa [indexFault, hh] using hr
    obtain ⟨t, hd, hok⟩ := drawSprite_completes (spritePoints 16 (sprite16 s)) x y (s := s) (n := 32) (by omega)
    exact ⟨t, (if_pos hh).trans hd, by simp [outcomeInRange, hh, hok]⟩

theorem exec_outcome_of_inRange (hr : indexFault s i = false) :
    ∃ t, exec i s = .next t ∧ t.outcome = outcomeInRange s i := by
  cases i with
  | op00EE => exact exec00EE_outcome s
  | op2NNN nnn => exact exec2NNN_outcome nnn s
  | opDXY0 x y => exact execDXY0_outcome hr
  | opFX0A x => exact execFX0A_completes x s
  | opDXYN x y n =>
    have hfits : ¬4095 < s.i.toNat + n.toNat - 1 := of_decide_eq_false hr
    exact drawSprite_completes _ x y (by omega)
  | opFX1E x => exact ⟨_, execFX1E_of_fits (Nat.not_lt.1 (of_decide_eq_false hr)), rfl⟩
  | opFX33 x => exact ⟨_, execFX33_of_le (Nat.not_lt.1 (of_decide_eq_false hr)), rfl⟩
  | opFX55 x => exact ⟨_, execFX55_of_le (Nat.not_lt.1 (of_decide_eq_false hr)), rfl⟩
  | opFX65 x => exact ⟨_, execFX65_of_le (Nat.not_lt.1 (of_decide_eq_false hr)), rfl⟩
  | opEX9E x => exact ⟨_, execEX9E_of_le (Nat.not_lt.1 (of_decide_eq_false hr)), rfl⟩
  | opEXA1 x => exact ⟨_, execEXA1_of_le (Nat.not_lt.1 (of_decide_eq_false hr)), rfl⟩
  | _ => exact ⟨_, rfl, rfl⟩

/-- R267: every instruction answers a next state, in every state, and this is what that state reports. -/
theorem exec_outcome (i : Instr) (s : State) : ∃ t, exec i s = .next t ∧ t.outcome = outcomeOf s i := by
  cases hr : indexFault s i with
  | true => exact ⟨_, exec_of_indexFault hr, (if_pos hr).symm⟩
  | false =>
    rw [outcomeOf, if_neg (Bool.eq_false_iff.1 hr)]
    exact exec_outcome_of_inRange hr

/-! ## The causes of each fault of an instruction (R251 to R254) -/

theorem outcomeInRange_ne_indexOutOfRange (s : State) (i : Instr) : outcomeInRange s i ≠ .indexOutOfRange := by
  fun_cases outcomeInRange s i <;> exact nofun

theorem outcomeOf_eq_indexOutOfRange_iff : outcomeOf s i = .indexOutOfRange ↔ indexFault s i = true := by
  simp [outcomeOf, outcomeInRange_ne_indexOutOfRange]

/-- A report of anything but `IndexOutOfRange` is the report where no row of R254 holds. -/
theorem outcomeOf_eq_iff_of_ne {o : StepOutcome} (ho : o ≠ .indexOutOfRange) :
    outcomeOf s i = o ↔ indexFault s i = false ∧ outcomeInRange s i = o := by
  cases hr : indexFault s i <;> simp [outcomeOf, hr, ho.symm]

theorem outcomeInRange_eq_stackOverflow_iff :
    outcomeInRange s i = .stackOverflow ↔ ∃ nnn, i = .op2NNN nnn ∧ 16 ≤ s.sp := by
  fun_cases outcomeInRange s i <;> simp_all

theorem outcomeInRange_eq_stackUnderflow_iff :
    outcomeInRange s i = .stackUnderflow ↔ i = .op00EE ∧ s.sp = 0 := by
  fun_cases outcomeInRange s i <;> simp_all

theorem outcomeInRange_eq_invalidOpcode {op : Word} (h : outcomeInRange s i = .invalidOpcode op) :
    ∃ x y, i = .opDXY0 x y ∧ s.hires = false := by
  revert h
  fun_cases outcomeInRange s i <;> simp [*]

theorem outcomeOf_eq_stackOverflow_iff :
    outcomeOf s i = .stackOverflow ↔ ∃ nnn, i = .op2NNN nnn ∧ 16 ≤ s.sp := by
  rw [outcomeOf_eq_iff_of_ne (o := .stackOverflow) nofun, outcomeInRange_eq_stackOverflow_iff, and_iff_right_iff_imp]
  rintro ⟨nnn, rfl, -⟩
  rfl

theorem outcomeOf_eq_stackUnderflow_iff : outcomeOf s i = .stackUnderflow ↔ i = .op00EE ∧ s.sp = 0 := by
  rw [outcomeOf_eq_iff_of_ne (o := .stackUnderflow) nofun, outcomeInRange_eq_stackUnderflow_iff, and_iff_right_iff_imp]
  rintro ⟨rfl, -⟩
  rfl

theorem outcomeOf_advance (s : State) (i : Instr) : outcomeOf (advance s) i = outcomeOf s i := rfl

/-! ## The instruction of a word that decodes (R97) -/

theorem not_illegalWord_of_decodeWord_ok {hires : Bool} {op : Word} (hd : decodeWord hires op = .ok i) :
    illegalWord hires op.toNat = false := by
  cases hd ▸ decodeWord_answers hires op with
  | reads hlegal => exact hlegal

theorem illegalWord_of_decodeWord_error {hires : Bool} {op : Word} {e : DecodeError}
    (hd : decodeWord hires op = .error e) : illegalWord hires op.toNat = true := by
  cases hd ▸ decodeWord_answers hires op with
  | refuses hill => exact hill

theorem hires_of_decodeWord_DXY0 {hires : Bool} {op : Word} {x y : Reg}
    (hd : decodeWord hires op = .ok (.opDXY0 x y)) : hires = true := by
  obtain ⟨-, rfl⟩ := (hd ▸ decodeWord_answers hires op).encodes
  have hword := decodeWord_DXY0 hires (op := encode (.opDXY0 x y)) (congrArg BitVec.toNat (classOf_xyn ..))
    (fieldN_xyn ..)
  by_contra hlow
  cases hd.symm.trans (hword.trans (if_neg hlow))

/-- A Step never runs DXY0 in low-res, so no instruction it runs reports `InvalidOpcode`. -/
theorem outcomeOf_ne_invalidOpcode {op : Word} (hd : decodeWord s.hires op = .ok i) (word : Word) :
    outcomeOf s i ≠ .invalidOpcode word := by
  intro h
  obtain ⟨-, hinvalid⟩ := (outcomeOf_eq_iff_of_ne (o := .invalidOpcode word) nofun).1 h
  obtain ⟨x, y, rfl, hlow⟩ := outcomeInRange_eq_invalidOpcode hinvalid
  exact Bool.false_ne_true (hlow.symm.trans (hires_of_decodeWord_DXY0 hd))

/-! ## A Step -/

/-- R267: a Step answers at fetch, at decode, or with what its instruction answers. -/
theorem step_answers (s : State) : ∃ t, step s = .next t := by
  unfold step
  split
  · exact ⟨_, rfl⟩
  · split
    · exact ⟨_, rfl⟩
    · next i _ =>
      obtain ⟨t, h, -⟩ := exec_outcome i (advance s)
      exact ⟨t, h⟩

theorem runOps_step (ops : List RunOp) (h : step s = .next t) :
    runOps (.step :: ops) s = if t.outcome = .exit then .next t else runOps ops t := by
  simp only [runOps, perform, h, true_and]

end Sys2Proof.Safety
end

section
/-! SUPPORT. The statements about what a Step and a run answer (`spec/60_exceptions.md`). -/

namespace Sys2Proof.Safety

open Sys2Proof Sys2Proof.Machine

/-- Settles O9. -/
theorem stepAlwaysAnswers : Obligations.StepAlwaysAnswers :=
  ⟨step_answers, fun i s => (exec_outcome i s).imp fun _ h => h.1⟩

/-- Settles O26. -/
theorem runEndsAtExitOnly : Obligations.RunEndsAtExitOnly :=
  fun ops _ _ h => ⟨fun hexit => (runOps_step ops h).trans (if_pos hexit),
    fun hgoes => (runOps_step ops h).trans (if_neg hgoes)⟩

/-- Settles O12, by the three cases of a Step: each of the first two reports its one fault, and the third what its
instruction reports. -/
theorem faultsHaveTheirCauses : Obligations.FaultsHaveTheirCauses := by
  intro s t h
  obtain ⟨hf, hpc, rfl⟩ | ⟨op, e, hf, hd, hn, rfl⟩ | ⟨op, i, hf, hd, hn, hx⟩ := step_cases h
  · have hn : nextInstr s = none := by simp only [nextInstr, hf]
    simp [hf, hn, hpc]
  · have hpc : ¬4094 < s.pc.toNat := Nat.not_lt.2 (pc_le_of_fetch hf)
    have hill := illegalWord_of_decodeWord_error hd
    refine ⟨fun word => ?_, by simp [hn], by simp [hn], by simp [hn, hpc]⟩
    simp only [report_outcome, StepOutcome.invalidOpcode.injEq, hf, Option.some.injEq, iff_self_and]
    rintro rfl
    exact hill
  · have hpc : ¬4094 < s.pc.toNat := Nat.not_lt.2 (pc_le_of_fetch hf)
    obtain ⟨u, hu, hout⟩ := exec_outcome i (advance s)
    obtain rfl := Host.Outcome.next.inj (hu.symm.trans hx)
    rw [hout, outcomeOf_advance, hn]
    refine ⟨fun word => iff_of_false (outcomeOf_ne_invalidOpcode hd word) ?_, ?_, ?_, ?_⟩
    · rintro ⟨hword, hill⟩
      obtain rfl := Option.some.inj (hf.symm.trans hword)
      exact Bool.false_ne_true ((not_illegalWord_of_decodeWord_ok hd).symm.trans hill)
    · simp [outcomeOf_eq_stackOverflow_iff]
    · simp [outcomeOf_eq_stackUnderflow_iff]
    · simp [outcomeOf_eq_indexOutOfRange_iff, hpc]

end Sys2Proof.Safety
end

section
/-! SUPPORT. Memory as the host loads it, and the statement about the state at the first Step (`spec/70_reset_and_hazards.md`). -/

namespace Sys2Proof.Safety

open Sys2Proof Sys2Proof.Machine

/-- The value of the last byte the host loads at `a`, if it loads one there. -/
def lastLoaded (ps : List (Addr12 × Byte)) (a : Nat) : Option Byte :=
  (ps.reverse.find? fun p => p.1.toNat == a).map Prod.snd

theorem lastLoaded_concat (ps : List (Addr12 × Byte)) (p : Addr12 × Byte) (a : Nat) :
    lastLoaded (ps ++ [p]) a = if a = p.1.toNat then some p.2 else lastLoaded ps a := by
  by_cases ha : a = p.1.toNat
  · simp [lastLoaded, ha]
  · simp [lastLoaded, ha, Ne.symm ha]

theorem readByte_hostLoad {s : State} (p : Addr12 × Byte) (a : Nat) (h : Memory.wf s.mem = true) :
    readByte (hostLoad p s) a = if a = p.1.toNat then p.2 else readByte s a := memRead_memWrite h

/-- By induction from the end of the list, as the last write wins. -/
theorem readByte_foldl_hostLoad {s : State} (ps : List (Addr12 × Byte)) (a : Nat) (h : Memory.wf s.mem = true) :
    readByte (ps.foldl (fun t p => hostLoad p t) s) a = (lastLoaded ps a).getD (readByte s a) := by
  induction ps using List.reverseRecOn with
  | nil => rfl
  | append_singleton ps p ih =>
    rw [List.foldl_concat, readByte_hostLoad p a (foldl_hostLoad_wf ps s h), ih, lastLoaded_concat]
    split <;> rfl

theorem boot_eq (b : Boot) (s : State) :
    ∃ m, boot b s = { hostReset s with quirks := b.straps, rpl := b.rpl, mem := m } :=
  foldl_hostLoad b.bytes _

/-- Reset and HostLoad leave every piece of state at its value in the reset state, but those the host brings, memory and
the count of samples (R280, R282). -/
theorem onlyChanges_boot (b : Boot) (s : State) :
    OnlyChanges [.mem, .rpl, .quirks, .draws] State.reset (boot b s) := by
  obtain ⟨m, hboot⟩ := boot_eq b s
  rw [hboot]
  intro c hc
  cases c with
  | mem | rpl | quirks | draws => exact absurd hc (by decide)
  | v => exact fun _ => rfl
  | _ => rfl

/-- Settles O22, by whether the host loads a byte at the address. -/
theorem bootLoadsWhatTheHostBrings : Obligations.BootLoadsWhatTheHostBrings := by
  intro b s hwf
  obtain ⟨m, hboot⟩ := boot_eq b s
  refine ⟨fun a => ?_, congrArg State.rpl hboot, congrArg State.quirks hboot, onlyChanges_boot b s⟩
  have hread : readByte (boot b s) a = (lastLoaded b.bytes a).getD (readByte s a) :=
    readByte_foldl_hostLoad b.bytes a hwf
  rw [hread, lastLoaded]
  cases b.bytes.reverse.find? (fun p => p.1.toNat == a) with
  | none => rfl
  | some p => rfl

end Sys2Proof.Safety
end
